-- ==== Sys2Proof/Word.lean ====
section
/-! DEFINITION. The word types of the engine: bytes, command words, event words, response words, addresses (R9). -/

namespace Sys2Proof

/-- A byte, an unsigned value 0..255 (R9). -/
abbrev Byte := BitVec 8

/-- A 16-bit operand `a` of a command word (R100). -/
abbrev Half := BitVec 16

/-- A host command word, format H (R100). -/
abbrev CmdWord := BitVec 32

/-- A response word (R101). -/
abbrev RespWord := BitVec 32

/-- The `DATA` field of a response word, and a `STATUS` word (R101, R47). -/
abbrev Data := BitVec 27

/-- An event word, format EV (R102). -/
abbrev EvWord := BitVec 16

/-- A 48-bit address (R6 `UID_BITS`, R109). -/
abbrev Uid := BitVec 48

end Sys2Proof
end

