-- ==== Sys2Proof/Config.lean ====
section
/-! DEFINITION. The configuration record CFG (R6), one definition per row of its table: the values the spec fixes as
definitions, the OPEN parameters as opaque constants kept inside the ranges R6 gives. -/

namespace Sys2Proof.Config

/-! ## Values the spec fixes -/

/-- `UID_BITS` (R6). -/
@[simp] def uidBits : Nat := 48

/-- `BROADCAST_UID`, "every device" (R6). -/
def broadcastUid : Uid := BitVec.allOnes uidBits

/-- `SLOTS_MAX` (R6). -/
@[simp] def slotsMax : Nat := 512

/-- `FRAME_BUF_LEN` (R6, R46). -/
@[simp] def frameBufLen : Nat := 513

/-- `SLOTS_DEFAULT`, the slot count after reset (R6, R49). -/
def slotsDefault : Nat := 512

/-- `PKT_HDR_LEN`, the header bytes of a packet (R6, R106). -/
@[simp] def pktHdrLen : Nat := 20

/-- `MSG_BLOCK_LEN`, the message-block bytes (R6, R106). -/
@[simp] def msgBlockLen : Nat := 4

/-- `CKSUM_LEN`: the value R6 gives (R6, R107). UNVERIFIED against a device: 93_implementation_defined.md U12 also
admits 2, so unsafe for a device that carries two bytes (log 7). -/
@[simp] def cksumLen : Nat := 1

/-- `PKT_MIN_ML`, the least legal length byte (R6, R108). -/
@[simp] def pktMinMl : Nat := pktHdrLen + msgBlockLen

/-- `PD_MAX`, the most payload bytes (R6, R108). -/
@[simp] def pdMax : Nat := 255 - pktMinMl

/-- `PKT_BUF_LEN`, the bytes of each packet buffer (R6, R46). -/
@[simp] def pktBufLen : Nat := 255 + cksumLen

/-- `SC_FRAME_RESET`, the start code in `TXFRAME[0]` after reset (R6, R49). -/
@[simp] def scFrameReset : Byte := 0x00#8

/-- `TXQ_DEPTH`, the pairs the serial peripheral holds (R6, R43). -/
@[simp] def txqDepth : Nat := 2

/-- `DIRPIN_NONE`, "no direction pin" (R6, R34). -/
def dirPinNone : Half := 0xFFFF#16

/-! ## The packet layout -/

/-- `PKT_LAYOUT`: the byte offset of every field of a packet (R6, R106). -/
structure Layout where
  /-- `SC_OFF`, the packet start code. -/
  sc : Nat
  /-- `SUBSC_OFF`, the sub-start code. -/
  subsc : Nat
  /-- `ML_OFF`, the length byte. -/
  ml : Nat
  /-- `DEST_OFF`, the destination address, 6 bytes. -/
  dest : Nat
  /-- `SRC_OFF`, the source address, 6 bytes. -/
  src : Nat
  /-- `TN_OFF`, the transaction counter. -/
  tn : Nat
  /-- `PORT_OFF`, the port. -/
  port : Nat
  /-- `MC_OFF`, the message count. -/
  mc : Nat
  /-- `SUB_OFF`, the sub-device, 2 bytes. -/
  sub : Nat
  /-- `CC_OFF`, the command class. -/
  cc : Nat
  /-- `PID_OFF`, the parameter id, 2 bytes. -/
  pid : Nat
  /-- `PDL_OFF`, the parameter data length. -/
  pdl : Nat
  /-- `PD_OFF`, the payload. -/
  pd : Nat
  deriving DecidableEq, Repr

/-- The default: the table of R106. -/
@[simp] def Layout.default : Layout where
  sc := 0
  subsc := 1
  ml := 2
  dest := 3
  src := 9
  tn := 15
  port := 16
  mc := 17
  sub := 18
  cc := 20
  pid := 21
  pdl := 23
  pd := 24

/-- The alternative of 92_eei_decisions.md D10, which moves the header fields only. -/
@[simp] def Layout.alternative : Layout where
  tn := 0
  port := 1
  dest := 2
  src := 8
  sub := 14
  sc := 16
  subsc := 17
  ml := 18
  mc := 19
  cc := 20
  pid := 21
  pdl := 23
  pd := 24

/-- `PKT_LAYOUT` of this machine: the default R6 gives. Every rule below reads its offsets from here, so this line
alone sets the alternative. UNVERIFIED against a device, so unsafe for one with the other layout (log 8). -/
@[simp] def layout : Layout := Layout.default

/-- `ML_OFF`, read by the engine (R108, R166, R217, R220, R224). -/
@[simp] def mlOff : Nat := layout.ml
/-- `DEST_OFF`, read by the engine (R224). -/
@[simp] def destOff : Nat := layout.dest
/-- `SRC_OFF`, read by the engine (R224). -/
@[simp] def srcOff : Nat := layout.src
/-- `TN_OFF`, read by the engine (R224). -/
@[simp] def tnOff : Nat := layout.tn
/-- `PDL_OFF`, read by the engine (R224). -/
@[simp] def pdlOff : Nat := layout.pdl

/-! ## OPEN parameters

DESIGN CHOICE (log 6): an OPEN parameter is an opaque constant, so nothing can be proved of its value beyond
the range R6 gives, which the type or the definition over it carries. Safe: a claim holds for every value. -/

/-- `SLOTS_MIN` less one (R6: 1 <= `SLOTS_MIN` <= 512). -/
opaque slotsMinLessOne : Fin 512

/-- `SLOTS_MIN`, the floor on the slot count (R6, R143). -/
def slotsMin : Nat := slotsMinLessOne.val + 1

/-- `TXN_TIMEOUT` less one (R6: 1..65535). -/
opaque txnTimeoutLessOne : Fin 65535

/-- `TXN_TIMEOUT`, ticks to wait for an addressed response (R6, R219). -/
def txnTimeout : Nat := txnTimeoutLessOne.val + 1

/-- `DISC_TIMEOUT` less one (R6: 1..65535). -/
opaque discTimeoutLessOne : Fin 65535

/-- `DISC_TIMEOUT`, ticks to wait for a discovery reply (R6, R219). -/
def discTimeout : Nat := discTimeoutLessOne.val + 1

/-- `DISC_RESP_MAX` less one (R6: 1..`PKT_BUF_LEN`). -/
opaque discRespMaxLessOne : Fin (254 + cksumLen + 1)

/-- `DISC_RESP_MAX`, the expected or maximum length of a discovery reply (R6, R220). -/
def discRespMax : Nat := discRespMaxLessOne.val + 1

/-- `DiscDecode` on lists that are not empty (R114). -/
opaque discDecodeOpen : List Byte → Option Uid

/-- `DiscDecode` (R114): a function of the byte list alone, `none` on the empty list (log 17). -/
def discDecode : List Byte → Option Uid
  | [] => none
  | b :: bs => discDecodeOpen (b :: bs)

/-- `CONTROLLER_UID` as a number: every 48-bit value but all ones (R6). -/
opaque controllerUidNat : Fin 281474976710655

/-- `DATA_BAUD`, the data rate (R6): OPEN, read by no rule (R317). -/
opaque dataBaud : Nat

/-- `BREAK_BAUD`, the low rate of the break (R6): OPEN, read by no rule (R317). -/
opaque breakBaud : Nat

/-- A value of `HOST_SPIN_MAX`: a number of iterations, or none (R6, R253). -/
inductive SpinMax where
  | finite (n : Nat)
  | unbounded
  deriving DecidableEq, Repr, Inhabited

/-- `HOST_SPIN_MAX`, the iteration bound of a pseudo-operation's spin (R6): OPEN, or unbounded. -/
opaque hostSpinMax : SpinMax

/-- The header constants the pseudo-operations write (R6, R252); OPEN, read by no rule of the engine itself. -/
structure Header where
  scPkt : Byte
  subscPkt : Byte
  controllerUid : Uid
  portId : Byte
  subdev : Half
  msgCount : Byte
  ccDisc : Byte
  ccGet : Byte
  ccSet : Byte
  pidDiscBranch : Half
  pidMute : Half
  pidUnmute : Half
  deriving DecidableEq, Repr, Inhabited

/-- The OPEN header constants but for the controller's address (R6). -/
opaque headerOpen : Header

/-- The header constants of this machine (R6). -/
def header : Header :=
  { headerOpen with controllerUid := BitVec.ofNat 48 controllerUidNat.val }

end Sys2Proof.Config
end

