-- ==== Sys2Proof/Syntax.lean ====
section
/-! DEFINITION. The engine's inputs and the instructions they stand for: nineteen host commands (R103) and six
events (R102), one constructor per row of spec/opcode_table.json. -/

namespace Sys2Proof

/-- One input of the engine: a command word of agent HOST (R100) or an event word offered by UART, LINE or
TIMER (R102). -/
inductive Input where
  | host (w : CmdWord)
  | event (w : EvWord)
  deriving DecidableEq, Repr

/-- A decoded command or event. A command carries exactly the operand fields it reads (R100, R103). -/
inductive Instr where
  /-- `SETSLOT slot, value` (R140). -/
  | setslot (slot : Half) (value : Byte)
  /-- `GETSLOT slot` (R141). -/
  | getslot (slot : Half)
  /-- `RXSLOT index` (R142). -/
  | rxslot (index : Half)
  /-- `SETCOUNT count` (R143). -/
  | setcount (count : Half)
  /-- `GETCOUNT` (R144). -/
  | getcount
  /-- `RDRXLEN` (R145). -/
  | rdrxlen
  /-- `STARTOUT` (R160). -/
  | startout
  /-- `STARTIN` (R161). -/
  | startin
  /-- `STOP` (R162). -/
  | stop
  /-- `SETDIRPIN pin` (R163). -/
  | setdirpin (pin : Half)
  /-- `SETHOOK hook, enable` (R164); `flags` bit 0 is the enable. -/
  | sethook (hook : Half) (flags : Byte)
  /-- `PKTWR offset, value` (R146). -/
  | pktwr (offset : Half) (value : Byte)
  /-- `PKTRD offset` (R147). -/
  | pktrd (offset : Half)
  /-- `NEXTTN` (R165). -/
  | nexttn
  /-- `SENDTXN flags` (R166); bit 0 is RESUME, bit 1 is DISC. -/
  | sendtxn (flags : Byte)
  /-- `RDPKTLEN` (R148). -/
  | rdpktlen
  /-- `RDDISC k` (R149). -/
  | rddisc (k : Half)
  /-- `RDSTATUS` (R167). -/
  | rdstatus
  /-- `CLRFLAG mask` (R168); bits 2..0 select FRAME_RCVD, TXN_RCVD, CMD_ERR from bit 0 up. -/
  | clrflag (mask : Byte)
  /-- Event `TX_READY` (R186, R187, R218). -/
  | txReady
  /-- Event `TX_DONE` (R184, R185, R217, R219). -/
  | txDone
  /-- Event `RX_BYTE` with the received byte (R204 to R206, R220). -/
  | rxByte (data : Byte)
  /-- Event `RX_BREAK` (R201 to R203, R221). -/
  | rxBreak
  /-- Event `TICK` (R222, R223). -/
  | tick
  /-- `SHIFTOUT`, the serial peripheral's own step (R182). -/
  | shiftout
  deriving DecidableEq, Repr

end Sys2Proof
end

