-- ==== Sys2Proof/Machine/State.lean ====
section
/-! DEFINITION. The state of the engine as plain data, its state after reset, and the reasons a step can stop. -/

namespace Sys2Proof.Machine

/-! ## Named field values -/

/-- `TASKMODE` (R20). -/
inductive TaskMode where
  | contSend | contRecv | sendTxn | sendTxnResume
  deriving DecidableEq, Repr

/-- `TXSTATE` (R22): what was last handed to the serial peripheral. -/
inductive TxState where
  | txIdle | txBreak | txStart | txData | txPktBreak | txPktData | txPktLast | txWaitResp
  deriving DecidableEq, Repr

/-- `RXSTATE` (R23); the reserved code 3 is never written and has no value here (log 5). -/
inductive RxState where
  | rxIdle | rxStart | rxReceiving
  deriving DecidableEq, Repr

/-- `RESPKIND` (R32). -/
inductive RespKind where
  | addressed | discovery
  deriving DecidableEq, Repr

/-- `BAUDSEL` (R35). -/
inductive Baud where
  | data | brk
  deriving DecidableEq, Repr

/-- `RESULT` (R41); the reserved codes 5..7 have no value here (log 5). -/
inductive TxnResult where
  | none | pending | valid | noReply | malformed
  deriving DecidableEq, Repr

/-- `MALF_CAUSE` (R41); the reserved code 7 has no value here (log 5). -/
inductive MalfCause where
  | none | length | checksum | tn | dest | incomplete | discDecode
  deriving DecidableEq, Repr

/-- The two hooks (R42, R164, R278). -/
inductive Hook where
  | frame | txn
  deriving DecidableEq, Repr

/-- A symbol of `TRACE` (R44). -/
inductive Sym where
  /-- `Brk`: a byte handed over at break baud has left the wire. -/
  | brk
  /-- `Tx(b)`: a byte at data baud has left the wire. -/
  | tx (b : Byte)
  /-- `Dir(l)`: the level on the direction pin became `l`. -/
  | dir (level : Bool)
  /-- `RxBrk`: the handler took a break from the line. -/
  | rxBrk
  /-- `Rx(b)`: the handler took a byte from the line. -/
  | rx (b : Byte)
  /-- `Notify(hook, n)`: a hook was invoked with length `n`. -/
  | notify (hook : Hook) (n : Nat)
  deriving DecidableEq, Repr

/-- A pair of `TXQ` (R43): a byte and the baud it was handed over at. -/
structure TxPair where
  byte : Byte
  baud : Baud
  deriving DecidableEq, Repr

/-- The four buffers (R46, R70), each an address space of its own. -/
inductive Buf where
  | txFrame | rxFrame | txPkt | rxPkt
  deriving DecidableEq, Repr

/-- A buffer's contents: the (index, byte) pairs that differ from what an unlisted index reads as, indices
strictly rising. -/
abbrev Memory := List Host.Cell

/-! ## The state -/

/-- Everything the spec gives the machine (R20 to R46), and the model's own `resp` and `schedule`. -/
@[ext]
structure State where
  /-- `TASKMODE` (R20). -/
  taskMode : TaskMode
  /-- `RUN` (R21). -/
  run : Bool
  /-- `TXSTATE` (R22). -/
  txState : TxState
  /-- `RXSTATE` (R23). -/
  rxState : RxState
  /-- `SLOTCOUNT` (R26). -/
  slotCount : BitVec 10
  /-- `DIR` (R33): 1 drives the line. -/
  dir : Bool
  /-- `DIRPIN` (R34). -/
  dirPin : BitVec 16
  /-- `BAUDSEL` (R35). -/
  baudSel : Baud
  /-- `IE_TXRDY` (R36). -/
  ieTxRdy : Bool
  /-- `IE_TXDONE` (R36). -/
  ieTxDone : Bool
  /-- `IE_RX` (R36). -/
  ieRx : Bool
  /-- `HOOK_FRAME_EN` (R42). -/
  hookFrameEn : Bool
  /-- `HOOK_TXN_EN` (R42). -/
  hookTxnEn : Bool
  /-- `RESPKIND` (R32). -/
  respKind : RespKind
  /-- `TXIDX` (R24). -/
  txIdx : BitVec 10
  /-- `RXIDX` (R25). -/
  rxIdx : BitVec 10
  /-- `RXLEN` (R27). -/
  rxLen : BitVec 10
  /-- `TN` (R28). -/
  tn : BitVec 8
  /-- `TXPKTLEN` (R29). -/
  txPktLen : BitVec 9
  /-- `RXPKTLEN` (R30). -/
  rxPktLen : BitVec 9
  /-- `TOCNT` (R31). -/
  toCnt : BitVec 16
  /-- `DISCUID` (R45). -/
  discUid : BitVec 48
  /-- `FRAME_SENT` (R37). -/
  frameSent : Bool
  /-- `FRAME_RCVD` (R38). -/
  frameRcvd : Bool
  /-- `TXN_RCVD` (R38). -/
  txnRcvd : Bool
  /-- `CMD_ERR` (R39). -/
  cmdErr : Bool
  /-- `RXANY` (R40). -/
  rxAny : Bool
  /-- `RESULT` (R41). -/
  result : TxnResult
  /-- `MALF_CAUSE` (R41). -/
  malfCause : MalfCause
  /-- `TXFRAME` (R46). -/
  txFrame : Memory
  /-- `RXFRAME` (R46). -/
  rxFrame : Memory
  /-- `TXPKT` (R46). -/
  txPkt : Memory
  /-- `RXPKT` (R46). -/
  rxPkt : Memory
  /-- `TXQ`, oldest first (R43). -/
  txq : List TxPair
  /-- `TXC` (R43). -/
  txc : Bool
  /-- `TRACE`, oldest first (R44). -/
  trace : List Sym
  /-- The model's own: the response word of the last host command (R8, R101; log 4). -/
  resp : Option RespWord
  /-- The model's own: the inputs still to come, next first (R7, R315; log 1). -/
  schedule : List Input
  deriving DecidableEq, Repr

/-- The machine right after reset (R49, R300, R301): all zero but `SLOTCOUNT` and `DIRPIN`; `TXFRAME[0]` is
`SC_FRAME_RESET`, which is 0x00, so that no buffer lists a byte and every byte reads 0x00. The two fields that are the model's own are empty (DESIGN CHOICE, log 1, 4). -/
def State.reset : State where
  taskMode := .contSend
  run := false
  txState := .txIdle
  rxState := .rxIdle
  slotCount := BitVec.ofNat 10 Config.slotsDefault
  dir := false
  dirPin := Config.dirPinNone
  baudSel := .data
  ieTxRdy := false
  ieTxDone := false
  ieRx := false
  hookFrameEn := false
  hookTxnEn := false
  respKind := .addressed
  txIdx := 0
  rxIdx := 0
  rxLen := 0
  tn := 0
  txPktLen := 0
  rxPktLen := 0
  toCnt := 0
  discUid := 0
  frameSent := false
  frameRcvd := false
  txnRcvd := false
  cmdErr := false
  rxAny := false
  result := .none
  malfCause := .none
  txFrame := if Config.scFrameReset = 0x00#8 then [] else [(0, Config.scFrameReset)]
  rxFrame := []
  txPkt := []
  rxPkt := []
  txq := []
  txc := false
  trace := []
  resp := none
  schedule := []

/-! ## Reasons to stop -/

/-- The model's stops. Each is raised only in a state no run reaches (log 9): where a rule of the spec would
leave the range the spec gives it, R12 and R277 say it never does, and the model stops. -/
inductive Fault where
  /-- An index outside a buffer (R70), raised by every buffer access. Safe: the spec has no such byte. -/
  | indexOutside (buf : Buf) (index : Nat)
  /-- A third pair for `TXQ` (R181's precondition), raised by handing over a byte. Safe: no effect is given. -/
  | txqOverflow
  /-- A count that would go below 0 (R12 c, d), raised by `TICK` and by the break that ends a frame. Safe. -/
  | countBelowZero
  /-- A count wider than the register it goes to (R9), raised by `Resolve` when `RXIDX` does not fit `RXPKTLEN`.
  Safe. -/
  | valueTooWide
  deriving DecidableEq, Repr

/-- The inputs without a meaning. -/
inductive Refusal where
  /-- An event word whose kind R102 does not list: it never occurs and the decoder refuses it (R104). Safe. -/
  | unlistedEventKind (kind : Byte)
  /-- An instruction that has no meaning yet; raised only by an arm of `exec`. Safe. -/
  | notModelled (mnemonic : String)
  deriving DecidableEq, Repr

/-- The outcome of a meaning. -/
abbrev Res := Host.Outcome State Fault Refusal

end Sys2Proof.Machine
end

