-- ==== Sys2Proof/Machine/Memory.lean ====
section
/-! DEFINITION. The buffers' memory: one byte read, one byte written, the canonical form (R70, R74, R49). -/

namespace Sys2Proof.Machine

/-- What an unlisted index reads as: the reset contents, 0x00 (R49; log 15). -/
def Memory.unlisted : Byte := 0x00#8

/-- The byte at an index. -/
def Memory.read : Memory → Nat → Byte
  | [], _ => Memory.unlisted
  | (k, x) :: rest, a => if k = a then x else Memory.read rest a

/-- Put a byte in front of the entries after it, unless an unlisted index reads as that byte. -/
def Memory.entry (a : Nat) (v : Byte) (rest : Memory) : Memory :=
  if v = Memory.unlisted then rest else (a, v) :: rest

/-- The memory with one byte written, in canonical form again. -/
def Memory.write : Memory → Nat → Byte → Memory
  | [], a, v => Memory.entry a v []
  | (k, x) :: rest, a, v =>
    if a < k then Memory.entry a v ((k, x) :: rest)
    else if a = k then Memory.entry a v rest
    else (k, x) :: Memory.write rest a v

/-- Indices strictly rising from `lo` and no entry equal to what an unlisted index reads as. -/
def Memory.wfFrom : Nat → Memory → Bool
  | _, [] => true
  | lo, (k, x) :: rest => decide (lo ≤ k) && (x != Memory.unlisted) && Memory.wfFrom (k + 1) rest

/-- The canonical form. -/
def Memory.wf (m : Memory) : Bool := Memory.wfFrom 0 m

/-- Every entry lies below `n`: the memory has no byte outside a buffer of `n` bytes (R70). -/
def Memory.below (n : Nat) (m : Memory) : Bool := m.all fun c => decide (c.1 < n)

/-! ## The four address spaces -/

/-- The number of bytes of a buffer (R46, R70). -/
def Buf.size : Buf → Nat
  | .txFrame => Config.frameBufLen
  | .rxFrame => Config.frameBufLen
  | .txPkt => Config.pktBufLen
  | .rxPkt => Config.pktBufLen

/-- The memory of a buffer. -/
def State.memory (s : State) : Buf → Memory
  | .txFrame => s.txFrame
  | .rxFrame => s.rxFrame
  | .txPkt => s.txPkt
  | .rxPkt => s.rxPkt

/-- The byte `B[i]` (R10). -/
def State.byteAt (s : State) (b : Buf) (i : Nat) : Byte := (s.memory b).read i

/-- The state with `B[i] <- v` (R10). -/
def State.withByte (s : State) (b : Buf) (i : Nat) (v : Byte) : State :=
  match b with
  | .txFrame => { s with txFrame := s.txFrame.write i v }
  | .rxFrame => { s with rxFrame := s.rxFrame.write i v }
  | .txPkt => { s with txPkt := s.txPkt.write i v }
  | .rxPkt => { s with rxPkt := s.rxPkt.write i v }

/-- The `n` bytes `B[i] .. B[i+n-1]` in order. -/
def State.bytesAt (s : State) (b : Buf) (i n : Nat) : List Byte :=
  (List.range n).map fun j => s.byteAt b (i + j)

/-- A list of bytes as one unsigned number, the first byte most significant (R72). -/
def bigEndian (l : List Byte) : Nat := l.foldl (fun acc b => acc * 256 + b.toNat) 0

/-- `MemRead(B, i, n)` (R10, R72). -/
def State.memRead (s : State) (b : Buf) (i n : Nat) : Nat := bigEndian (s.bytesAt b i n)

end Sys2Proof.Machine
end

