-- ==== Sys2Proof/Machine/Operands.lean ====
section
/-! DEFINITION. Operand forms: an index operand with its bounds, a clamped count, single flag bits (R73, R104,
R110). Every operand is used as it stands: no sign extension, scaling or shifting. -/

namespace Sys2Proof.Machine

/-- The bound of the slot accessors, `1 <= slot <= SLOTCOUNT` (R73, R140, R141). -/
def slotInRange (a : Half) (s : State) : Bool :=
  decide (1 ≤ a.toNat) && decide (a.toNat ≤ s.slotCount.toNat)

/-- The bound of `RXSLOT`, `0 <= index <= 512` (R73, R142). -/
def rxIndexInRange (a : Half) : Bool := decide (a.toNat ≤ Config.slotsMax)

/-- The bound of `PKTWR` and `PKTRD`, `0 <= offset <= PKT_BUF_LEN - 1` (R73, R146, R147). -/
def pktOffsetInRange (a : Half) : Bool := decide (a.toNat < Config.pktBufLen)

/-- The bound of `RDDISC`, `0 <= k <= 5` (R73, R149). -/
def uidIndexInRange (a : Half) : Bool := decide (a.toNat ≤ 5)

/-- The count `SETCOUNT` takes, for a floor `lo`: raised to the floor, lowered to 512 (R143). -/
def clampCountFrom (lo n : Nat) : Nat :=
  if Config.slotsMax < (if n < lo then lo else n) then Config.slotsMax else (if n < lo then lo else n)

/-- The count `SETCOUNT` takes (R143, R12 g). -/
def clampCount (n : Nat) : Nat := clampCountFrom Config.slotsMin n

/-- `v[k]`, one flag bit of an operand (R110). -/
def flagBit (v : Byte) (k : Nat) : Bool := v.getLsbD k

/-- Byte `k` of an address, `uid[47 - 8k : 40 - 8k]` (R109, R149). -/
def uidByte (u : Uid) (k : Nat) : Byte := u.extractLsb' (40 - 8 * k) 8

end Sys2Proof.Machine
end

