-- ==== Sys2Proof/Machine/Flags.lean ====
section
/-! DEFINITION. The codes of the named fields, the `STATUS` word, the predicates of R50, the reject causes and
the response words (R20 to R23, R41, R47, R101, R271). -/

namespace Sys2Proof.Machine

/-! ## Field codes -/

/-- Codes of `TASKMODE` (R20). -/
def TaskMode.code : TaskMode → BitVec 2
  | .contSend => 0#2
  | .contRecv => 1#2
  | .sendTxn => 2#2
  | .sendTxnResume => 3#2

/-- Codes of `TXSTATE` (R22). -/
def TxState.code : TxState → BitVec 3
  | .txIdle => 0#3
  | .txBreak => 1#3
  | .txStart => 2#3
  | .txData => 3#3
  | .txPktBreak => 4#3
  | .txPktData => 5#3
  | .txPktLast => 6#3
  | .txWaitResp => 7#3

/-- Codes of `RXSTATE` (R23). -/
def RxState.code : RxState → BitVec 2
  | .rxIdle => 0#2
  | .rxStart => 1#2
  | .rxReceiving => 2#2

/-- Codes of `RESPKIND` (R32). -/
def RespKind.code : RespKind → BitVec 1
  | .addressed => 0#1
  | .discovery => 1#1

/-- Codes of `BAUDSEL` (R35). -/
def Baud.code : Baud → BitVec 1
  | .data => 0#1
  | .brk => 1#1

/-- Codes of `RESULT` (R41). -/
def TxnResult.code : TxnResult → BitVec 3
  | .none => 0#3
  | .pending => 1#3
  | .valid => 2#3
  | .noReply => 3#3
  | .malformed => 4#3

/-- Codes of `MALF_CAUSE` (R41). -/
def MalfCause.code : MalfCause → BitVec 3
  | .none => 0#3
  | .length => 1#3
  | .checksum => 2#3
  | .tn => 3#3
  | .dest => 4#3
  | .incomplete => 5#3
  | .discDecode => 6#3

/-- One bit of a flag. -/
def bit (b : Bool) : BitVec 1 := BitVec.ofBool b

/-! ## Predicates (R50) -/

/-- `TxnActive` (R50). -/
def State.txnActive (s : State) : Bool :=
  match s.taskMode with
  | .contSend => false
  | .contRecv => false
  | .sendTxn => true
  | .sendTxnResume => true

/-- `Quiescent` (R50). -/
def State.quiescent (s : State) : Bool :=
  decide (s.txState = .txIdle) && !s.ieTxRdy && !s.ieTxDone && !s.ieRx

/-- `Startable` (R50). -/
def State.startable (s : State) : Bool :=
  !s.txnActive && (!s.run || s.quiescent) && s.txq.isEmpty

/-! ## STATUS (R47) -/

/-- `TXBUSY`: `TXQ` is not empty (R47). -/
def State.txBusy (s : State) : Bool := !s.txq.isEmpty

/-- A field of `STATUS` with its lowest bit at `lo` (R47, R12 i). -/
def field {w : Nat} (x : BitVec w) (lo : Nat) : Data := x.setWidth 27 <<< lo

/-- The `STATUS` word; bits 26:25 are 0 (R47). -/
def State.status (s : State) : Data :=
  field s.taskMode.code 0 ||| field (bit s.run) 2 ||| field s.txState.code 3 ||| field s.rxState.code 6
    ||| field (bit s.dir) 8 ||| field s.baudSel.code 9 ||| field (bit s.txBusy) 10
    ||| field (bit s.frameSent) 11 ||| field (bit s.frameRcvd) 12 ||| field (bit s.txnRcvd) 13
    ||| field (bit s.cmdErr) 14 ||| field (bit s.hookFrameEn) 15 ||| field (bit s.hookTxnEn) 16
    ||| field s.result.code 17 ||| field s.malfCause.code 20 ||| field (bit s.rxAny) 23
    ||| field s.respKind.code 24

/-! ## Response words (R101, R271) -/

/-- Reject causes (R271). -/
inductive Cause where
  | badOpcode | range | busy | notRunning | wrongMode | badLen | txNotDrained | badOperand
  deriving DecidableEq, Repr

/-- Codes of the reject causes (R271). -/
def Cause.code : Cause → BitVec 4
  | .badOpcode => 1#4
  | .range => 2#4
  | .busy => 3#4
  | .notRunning => 4#4
  | .wrongMode => 5#4
  | .badLen => 6#4
  | .txNotDrained => 7#4
  | .badOperand => 8#4

/-- The response word of an accepted command: `REJ = 0`, `CAUSE = 0`, `DATA` (R101). -/
def okWord (d : Data) : RespWord := d.setWidth 32

/-- The response word of a rejected command: `REJ = 1`, the cause, `DATA = 0` (R101, R170). -/
def rejWord (c : Cause) : RespWord := 1#32 <<< 31 ||| c.code.setWidth 32 <<< 27

/-- `REJ` of a response word (R101). -/
def respRej (w : RespWord) : Bool := w.getLsbD 31

/-- `CAUSE` of a response word (R101). -/
def respCause (w : RespWord) : BitVec 4 := w.extractLsb' 27 4

/-- `DATA` of a response word (R101). -/
def respData (w : RespWord) : Data := w.extractLsb' 0 27

end Sys2Proof.Machine
end

