-- ==== Sys2Proof/Machine/Ops.lean ====
section
/-! DEFINITION. The shared operations: bounds-checked buffer access, the end of a host command (a response or a
reject, R10, R170), delivery of an event (R183, R276), and the procedures SetDir, UartPut and FrameBoundary
(R169, R181, R180). The engine has no other exception: nothing is saved and nothing is restored (R276, R277). -/

namespace Sys2Proof.Machine

/-- Run the rest of a step on the next state; a stop stays a stop. -/
def andThen (r : Res) (k : State → Res) : Res :=
  match r with
  | .next s => k s
  | .fault f => .fault f
  | .refused q => .refused q

/-! ## Buffer access (R70, R73) -/

/-- Read `B[i]`; an index outside the buffer stops (log 9). -/
def load (b : Buf) (i : Nat) (s : State) (k : Byte → Res) : Res :=
  if i < b.size then k (s.byteAt b i) else .fault (.indexOutside b i)

/-- Write `B[i] <- v`; an index outside the buffer stops (log 9). -/
def store (b : Buf) (i : Nat) (v : Byte) (s : State) : Res :=
  if i < b.size then .next (s.withByte b i v) else .fault (.indexOutside b i)

/-! ## The end of a host command -/

/-- `return v`: the response word is `zext(v)` with `REJ = 0` (R10, R101). -/
def respond (d : Data) (s : State) : Res := .next { s with resp := some (okWord d) }

/-- `raise Reject(cause)`: `CMD_ERR <- 1` and the response word; nothing else changes (R170). -/
def reject (c : Cause) (s : State) : Res :=
  .next { s with cmdErr := true, resp := some (rejWord c) }

/-! ## Trace and events -/

/-- `Trace(sym)` (R10, R44). -/
def emit (y : Sym) (s : State) : State := { s with trace := s.trace ++ [y] }

/-- `TX_READY` is enabled (R183). -/
def State.txReadyEnabled (s : State) : Bool :=
  s.run && s.ieTxRdy && decide (s.txq.length < Config.txqDepth)

/-- `TX_DONE` is enabled (R183). -/
def State.txDoneEnabled (s : State) : Bool := s.run && s.ieTxDone && s.txc

/-- `RX_BYTE` and `RX_BREAK` are enabled, the `LINE` offering one (R183). -/
def State.rxEnabled (s : State) : Bool := s.run && s.ieRx

/-- `TICK` is enabled (R183). -/
def State.tickEnabled (s : State) : Bool := s.run

/-- `SHIFTOUT` is enabled, whatever `RUN` is (R182, R183). -/
def State.shiftoutEnabled (s : State) : Bool := !s.txq.isEmpty

/-- Delivery of an event (R183, R276): an enabled event runs its arm; one that is not enabled is not delivered,
and nothing changes. DESIGN CHOICE for `TX_READY`, `TX_DONE` and `SHIFTOUT`, which R183 only says cannot be
taken; safe, a step that changes nothing is added (log 3). -/
def deliver (enabled : Bool) (arm : State → Res) (s : State) : Res :=
  if enabled then arm s else .next s

/-! ## Procedures -/

/-- `SetDir(l)` (R169). -/
def setDir (l : Bool) (s : State) : State :=
  if s.dir = l then s
  else if s.dirPin = Config.dirPinNone then { s with dir := l }
  else { s with dir := l, trace := s.trace ++ [.dir l] }

/-- `UartPut(b)` (R181); without room in `TXQ` the precondition fails and the model stops (log 9). -/
def uartPut (b : Byte) (s : State) : Res :=
  if s.txq.length < Config.txqDepth then
    .next { s with txq := s.txq ++ [⟨b, s.baudSel⟩], txc := false }
  else .fault .txqOverflow

/-- Hand over a break: `BAUDSEL <- 1`, then the byte 0x00 (R180, R35). -/
def putBreak (s : State) : Res := uartPut 0x00#8 { s with baudSel := .brk }

/-- `FrameBoundary()` (R180). -/
def frameBoundary (s : State) : Res :=
  match s.taskMode with
  | .contSend =>
    andThen (putBreak (setDir true { s with ieTxRdy := false })) fun s =>
      .next { s with txState := .txBreak, ieTxDone := true }
  | .contRecv => .next { s with ieTxRdy := false, txState := .txIdle, ieTxDone := false }
  | .sendTxn | .sendTxnResume =>
    andThen (putBreak (setDir true { s with ieTxRdy := false, frameSent := false })) fun s =>
      .next { s with txState := .txPktBreak, ieTxDone := true }

end Sys2Proof.Machine
end

