-- ==== Sys2Proof/Machine/BufferAccess.lean ====
section
/-! DEFINITION. The buffer access commands (40_buffer_access.md R140 to R149). -/

namespace Sys2Proof.Machine

/-- The response of a command that returns a byte: the byte zero-extended (R101). -/
def respondByte (b : Byte) (s : State) : Res := respond (b.setWidth 27) s

/-- `SETSLOT slot, value` (R140). -/
def execSetslot (slot : Half) (value : Byte) (s : State) : Res :=
  if slotInRange slot s then andThen (store .txFrame slot.toNat value s) (respond 0)
  else reject .range s

/-- `GETSLOT slot` (R141). -/
def execGetslot (slot : Half) (s : State) : Res :=
  if slotInRange slot s then load .txFrame slot.toNat s fun b => respondByte b s
  else reject .range s

/-- `RXSLOT index` (R142). -/
def execRxslot (index : Half) (s : State) : Res :=
  if rxIndexInRange index then load .rxFrame index.toNat s fun b => respondByte b s
  else reject .range s

/-- `SETCOUNT count` (R143): the count taken is clamped, never rejected. -/
def execSetcount (count : Half) (s : State) : Res :=
  respond (BitVec.ofNat 27 (clampCount count.toNat))
    { s with slotCount := BitVec.ofNat 10 (clampCount count.toNat) }

/-- `GETCOUNT` (R144). -/
def execGetcount (s : State) : Res := respond (s.slotCount.setWidth 27) s

/-- `RDRXLEN` (R145). -/
def execRdrxlen (s : State) : Res := respond (s.rxLen.setWidth 27) s

/-- `PKTWR offset, value` (R146): `BUSY` is tested before `RANGE`. -/
def execPktwr (offset : Half) (value : Byte) (s : State) : Res :=
  if s.txnActive then reject .busy s
  else if pktOffsetInRange offset then andThen (store .txPkt offset.toNat value s) (respond 0)
  else reject .range s

/-- `PKTRD offset` (R147). -/
def execPktrd (offset : Half) (s : State) : Res :=
  if pktOffsetInRange offset then load .rxPkt offset.toNat s fun b => respondByte b s
  else reject .range s

/-- `RDPKTLEN` (R148). -/
def execRdpktlen (s : State) : Res := respond (s.rxPktLen.setWidth 27) s

/-- `RDDISC k` (R149): byte 0 is the most significant. -/
def execRddisc (k : Half) (s : State) : Res :=
  if uidIndexInRange k then respondByte (uidByte s.discUid k.toNat) s else reject .range s

end Sys2Proof.Machine
end

