-- ==== Sys2Proof/WellFormed.lean ====
section
/-! DEFINITION. Well-formedness of an instruction: the bits of a flag operand that the command ignores are clear. -/

namespace Sys2Proof

/-- The bits of `v` that `SETHOOK` reads (R164: `v[7:1]` ignored). -/
def sethookBits : Byte := 0x01#8

/-- The bits of `v` that `SENDTXN` reads (R166: `v[7:2]` ignored). -/
def sendtxnBits : Byte := 0x03#8

/-- The bits of `v` that `CLRFLAG` reads (R168: `v[7:3]` ignored). -/
def clrflagBits : Byte := 0x07#8

/-- An instruction is well formed when its flag operand has no bit the command ignores (R100, R104; log 11).
Every other operand takes every value of its field: an operand outside a command's bounds is a legal encoding
that the command itself rejects (R73). -/
def Instr.wf : Instr → Bool
  | .setslot _ _ => true
  | .getslot _ => true
  | .rxslot _ => true
  | .setcount _ => true
  | .getcount => true
  | .rdrxlen => true
  | .startout => true
  | .startin => true
  | .stop => true
  | .setdirpin _ => true
  | .sethook _ flags => flags &&& sethookBits == flags
  | .pktwr _ _ => true
  | .pktrd _ => true
  | .nexttn => true
  | .sendtxn flags => flags &&& sendtxnBits == flags
  | .rdpktlen => true
  | .rddisc _ => true
  | .rdstatus => true
  | .clrflag mask => mask &&& clrflagBits == mask
  | .txReady => true
  | .txDone => true
  | .rxByte _ => true
  | .rxBreak => true
  | .tick => true
  | .shiftout => true

end Sys2Proof
end

