-- ==== Sys2Proof/Decode.lean ====
section
/-! DEFINITION. The decoder, total on every command word and event word (R171, R102), and the encoder written
from the same tables (R100, R102, R103). -/

namespace Sys2Proof

/-- Why an input is no instruction. -/
inductive DecodeReject where
  /-- The command word's `op` is not in R103 (R104: rejected with BAD_OPCODE). -/
  | badOpcode (op : Byte)
  /-- The event word's `kind` is not in R102 (R104: never occurs, the decoder refuses it). -/
  | badEventKind (kind : Byte)
  deriving DecidableEq, Repr

/-! ## Fields -/

/-- `op = w[31:24]` (R100). -/
def cmdOp (w : CmdWord) : Byte := w.extractLsb' 24 8

/-- `a = w[23:8]` (R100). -/
def cmdA (w : CmdWord) : Half := w.extractLsb' 8 16

/-- `v = w[7:0]` (R100). -/
def cmdV (w : CmdWord) : Byte := w.extractLsb' 0 8

/-- `kind = w[15:8]` (R102). -/
def evKind (w : EvWord) : Byte := w.extractLsb' 8 8

/-- `data = w[7:0]` (R102). -/
def evData (w : EvWord) : Byte := w.extractLsb' 0 8

/-! ## Decoder -/

/-- The opcode map (R103) on the three fields of a command word; a field a command does not read is dropped. -/
def decodeFields (op : Byte) (a : Half) (v : Byte) : Except DecodeReject Instr :=
  match op.toNat with
  | 0x01 => .ok (.setslot a v)
  | 0x02 => .ok (.getslot a)
  | 0x03 => .ok (.rxslot a)
  | 0x04 => .ok (.setcount a)
  | 0x05 => .ok .getcount
  | 0x06 => .ok .rdrxlen
  | 0x10 => .ok .startout
  | 0x11 => .ok .startin
  | 0x12 => .ok .stop
  | 0x13 => .ok (.setdirpin a)
  | 0x14 => .ok (.sethook a (v &&& sethookBits))
  | 0x20 => .ok (.pktwr a v)
  | 0x21 => .ok (.pktrd a)
  | 0x22 => .ok .nexttn
  | 0x23 => .ok (.sendtxn (v &&& sendtxnBits))
  | 0x24 => .ok .rdpktlen
  | 0x25 => .ok (.rddisc a)
  | 0x30 => .ok .rdstatus
  | 0x31 => .ok (.clrflag (v &&& clrflagBits))
  | _ => .error (.badOpcode op)

/-- A command word is decoded from `op` alone (R100, R171). -/
def decodeCommand (w : CmdWord) : Except DecodeReject Instr :=
  decodeFields (cmdOp w) (cmdA w) (cmdV w)

/-- An event word is decoded from `kind` alone (R102). -/
def decodeEvent (w : EvWord) : Except DecodeReject Instr :=
  match (evKind w).toNat with
  | 0x01 => .ok .txReady
  | 0x02 => .ok .txDone
  | 0x03 => .ok (.rxByte (evData w))
  | 0x04 => .ok .rxBreak
  | 0x05 => .ok .tick
  | 0x06 => .ok .shiftout
  | _ => .error (.badEventKind (evKind w))

/-- Decoding of an input: a command word by format H, an event word by format EV. -/
def decode : Input → Except DecodeReject Instr
  | .host w => decodeCommand w
  | .event w => decodeEvent w

/-! ## Encoder -/

/-- A command word from its three fields (R100). -/
def cmdWord (op : Byte) (a : Half) (v : Byte) : CmdWord :=
  op.setWidth 32 <<< 24 ||| a.setWidth 32 <<< 8 ||| v.setWidth 32

/-- An event word from its two fields (R102). -/
def evWord (kind data : Byte) : EvWord := kind.setWidth 16 <<< 8 ||| data.setWidth 16

/-- The words of an instruction (R102, R103); an unread field is 0 (R111: an omitted operand is 0). -/
def encode : Instr → Input
  | .setslot a v => .host (cmdWord 0x01#8 a v)
  | .getslot a => .host (cmdWord 0x02#8 a 0)
  | .rxslot a => .host (cmdWord 0x03#8 a 0)
  | .setcount a => .host (cmdWord 0x04#8 a 0)
  | .getcount => .host (cmdWord 0x05#8 0 0)
  | .rdrxlen => .host (cmdWord 0x06#8 0 0)
  | .startout => .host (cmdWord 0x10#8 0 0)
  | .startin => .host (cmdWord 0x11#8 0 0)
  | .stop => .host (cmdWord 0x12#8 0 0)
  | .setdirpin a => .host (cmdWord 0x13#8 a 0)
  | .sethook a v => .host (cmdWord 0x14#8 a v)
  | .pktwr a v => .host (cmdWord 0x20#8 a v)
  | .pktrd a => .host (cmdWord 0x21#8 a 0)
  | .nexttn => .host (cmdWord 0x22#8 0 0)
  | .sendtxn v => .host (cmdWord 0x23#8 0 v)
  | .rdpktlen => .host (cmdWord 0x24#8 0 0)
  | .rddisc a => .host (cmdWord 0x25#8 a 0)
  | .rdstatus => .host (cmdWord 0x30#8 0 0)
  | .clrflag v => .host (cmdWord 0x31#8 0 v)
  | .txReady => .event (evWord 0x01#8 0)
  | .txDone => .event (evWord 0x02#8 0)
  | .rxByte b => .event (evWord 0x03#8 b)
  | .rxBreak => .event (evWord 0x04#8 0)
  | .tick => .event (evWord 0x05#8 0)
  | .shiftout => .event (evWord 0x06#8 0)

/-! ## The opcode table's words -/

/-- The input a word of spec/opcode_table.json stands for: an event row has 16 bits, a command row 32
(R100, R102; log 16). -/
def tableInput (nbits w : Nat) : Input :=
  if nbits ≤ 16 then .event (BitVec.ofNat 16 w) else .host (BitVec.ofNat 32 w)

/-- The instruction the decoder reads from a word of the opcode table. -/
def decodeTableWord (nbits w : Nat) : Option Instr :=
  match decode (tableInput nbits w) with
  | .ok i => some i
  | .error _ => none

end Sys2Proof
end

