-- ==== Sys2Proof/Machine/Control.lean ====
section
/-! DEFINITION. The control, transaction-start and status commands (41_control.md R160 to R168) and what
dispatch does with an input that is no instruction (R171, R104). -/

namespace Sys2Proof.Machine

/-- The tests `STARTOUT` and `STARTIN` share, in their order (R160, R161): the command goes on only when
`Startable` (R50). -/
def whenStartable (s : State) (k : Res) : Res :=
  if s.txnActive then reject .busy s
  else if s.run && !s.quiescent then reject .busy s
  else if s.txBusy then reject .txNotDrained s
  else k

/-- `STARTOUT` (R160). -/
def execStartout (s : State) : Res :=
  whenStartable s <|
    andThen
      (frameBoundary
        { s with taskMode := .contSend, run := true, ieRx := false, rxState := .rxIdle })
      (respond 0)

/-- `STARTIN` (R161). -/
def execStartin (s : State) : Res :=
  whenStartable s <|
    respond 0
      { setDir false { s with taskMode := .contRecv, run := true } with
        ieTxRdy := false, ieTxDone := false, txState := .txIdle, rxState := .rxIdle, rxIdx := 0,
        ieRx := true }

/-- `STOP` (R162). -/
def execStop (s : State) : Res :=
  if s.txnActive then reject .busy s
  else
    respond 0
      { s with
        run := false, ieTxRdy := false, ieTxDone := false, ieRx := false, txState := .txIdle,
        rxState := .rxIdle }

/-- `SETDIRPIN pin` (R163): a pin takes the current level at once. -/
def execSetdirpin (pin : Half) (s : State) : Res :=
  if pin = Config.dirPinNone then respond 0 { s with dirPin := pin }
  else respond 0 (emit (.dir s.dir) { s with dirPin := pin })

/-- `SETHOOK hook, enable` (R164). -/
def execSethook (hook : Half) (flags : Byte) (s : State) : Res :=
  if hook = 0#16 then respond 0 { s with hookFrameEn := flagBit flags 0 }
  else if hook = 1#16 then respond 0 { s with hookTxnEn := flagBit flags 0 }
  else reject .badOperand s

/-- `NEXTTN` (R165): use, then increment mod 256. -/
def execNexttn (s : State) : Res := respond (s.tn.setWidth 27) { s with tn := s.tn + 1#8 }

/-- The state `SENDTXN` leaves before a boundary step it may take itself (R166). -/
def sendtxnAccepted (flags : Byte) (s : State) : State :=
  { s with
    respKind := if flagBit flags 1 then .discovery else .addressed
    result := .pending
    malfCause := .none
    taskMode := if flagBit flags 0 then .sendTxnResume else .sendTxn }

/-- `SENDTXN flags` (R166): the tests in their order; `Quiescent` is evaluated before `TASKMODE` is written. -/
def execSendtxn (flags : Byte) (s : State) : Res :=
  if !s.run then reject .notRunning s
  else if s.txnActive then reject .busy s
  else if s.taskMode ≠ .contSend then reject .wrongMode s
  else if (s.byteAt .txPkt Config.mlOff).toNat < Config.pktMinMl then reject .badLen s
  else if s.quiescent then andThen (frameBoundary (sendtxnAccepted flags s)) (respond 0)
  else respond 0 (sendtxnAccepted flags s)

/-- `RDSTATUS` (R167). -/
def execRdstatus (s : State) : Res := respond s.status s

/-- `CLRFLAG mask` (R168). -/
def execClrflag (mask : Byte) (s : State) : Res :=
  respond 0
    { s with
      frameRcvd := s.frameRcvd && !flagBit mask 0
      txnRcvd := s.txnRcvd && !flagBit mask 1
      cmdErr := s.cmdErr && !flagBit mask 2 }

/-- What dispatch does with an input the decoder rejects (R171, R104): a command word of an unlisted opcode is
rejected with `BAD_OPCODE`; an event word of an unlisted kind never occurs and is refused (log 10). -/
def execUndecoded (r : DecodeReject) (s : State) : Res :=
  match r with
  | .badOpcode _ => reject .badOpcode s
  | .badEventKind kind => .refused (.unlistedEventKind kind)

end Sys2Proof.Machine
end

