-- ==== Sys2Proof/Machine/Transaction.lean ====
section
/-! DEFINITION. The request/response transaction (44_transaction.md): the packet arms, the turnaround, validation,
the timeout and the resolution (R217 to R226). -/

namespace Sys2Proof.Machine

/-- `Checksum(list)` for a checksum of `len` bytes (R107). -/
def checksumOf (len : Nat) (l : List Byte) : Nat := (l.map BitVec.toNat).sum % 256 ^ len

/-- `Checksum(list)` (R107). -/
def checksum (l : List Byte) : Nat := checksumOf Config.cksumLen l

/-- What a transaction came to: `RESULT` and `MALF_CAUSE` (R41, R272). -/
structure Verdict where
  result : TxnResult
  cause : MalfCause
  deriving DecidableEq, Repr

/-- `(VALID, 0)`. -/
def verdictValid : Verdict := ⟨.valid, .none⟩

/-- `(NO_REPLY, 0)`. -/
def verdictNoReply : Verdict := ⟨.noReply, .none⟩

/-- `(MALFORMED, cause)`. -/
def verdictMalformed (c : MalfCause) : Verdict := ⟨.malformed, c⟩

/-- Check V1, the length (R224). -/
def lengthOk (s : State) : Bool :=
  decide (Config.pktMinMl ≤ (s.byteAt .rxPkt Config.mlOff).toNat)
    && decide (s.rxIdx.toNat = (s.byteAt .rxPkt Config.mlOff).toNat + Config.cksumLen)
    && decide ((s.byteAt .rxPkt Config.pdlOff).toNat + Config.pktMinMl
        = (s.byteAt .rxPkt Config.mlOff).toNat)

/-- Check V2, the checksum (R224, R107). -/
def checksumOk (s : State) : Bool :=
  decide (checksum (s.bytesAt .rxPkt 0 (s.byteAt .rxPkt Config.mlOff).toNat)
    = s.memRead .rxPkt (s.byteAt .rxPkt Config.mlOff).toNat Config.cksumLen)

/-- Check V3, the transaction counter of the request as sent (R224). -/
def counterOk (s : State) : Bool :=
  decide (s.byteAt .rxPkt Config.tnOff = s.byteAt .txPkt Config.tnOff)

/-- Check V4, the response's destination is the request's source (R224). -/
def destOk (s : State) : Bool :=
  decide (s.memRead .rxPkt Config.destOff 6 = s.memRead .txPkt Config.srcOff 6)

/-- `Validate()`: the four checks in their order, and no others (R224). -/
def validate (s : State) : Verdict :=
  if !lengthOk s then verdictMalformed .length
  else if !checksumOk s then verdictMalformed .checksum
  else if !counterOk s then verdictMalformed .tn
  else if !destOk s then verdictMalformed .dest
  else verdictValid

/-- The first half of `Resolve`: the outcome, the receiver off, the flag and the hook (R225). -/
def recordOutcome (v : Verdict) (len : BitVec 9) (s : State) : State :=
  let s := { s with
    result := v.result, malfCause := v.cause, rxPktLen := len, ieRx := false, rxState := .rxIdle }
  if v.result = .valid then
    if s.hookTxnEn then emit (.notify .txn s.rxIdx.toNat) { s with txnRcvd := true }
    else { s with txnRcvd := true }
  else s

/-- The second half of `Resolve`: the line and the task mode are handed back, and frames resume or the engine
falls quiet (R225). -/
def handBack (s : State) : Res :=
  if s.taskMode = .sendTxnResume then frameBoundary { setDir true s with taskMode := .contSend }
  else .next { setDir true s with
    taskMode := .contSend, txState := .txIdle, ieTxRdy := false, ieTxDone := false }

/-- `Resolve(res, cause)` (R225). `RXPKTLEN` has 9 bits; a longer count is in no reachable state (log 9). -/
def resolve (v : Verdict) (s : State) : Res :=
  if s.rxIdx.toNat < 512 then
    handBack (recordOutcome v (BitVec.ofNat 9 s.rxIdx.toNat) s)
  else .fault .valueTooWide

/-- `Resolve(DiscResult())` (R226, R225); the received bytes must lie in `RXPKT` (log 9). -/
def resolveDiscovery (s : State) : Res :=
  if !s.rxAny then resolve verdictNoReply s
  else if s.rxIdx.toNat ≤ Config.pktBufLen then
    match Config.discDecode (s.bytesAt .rxPkt 0 s.rxIdx.toNat) with
    | some u => resolve verdictValid { s with discUid := u }
    | none => resolve (verdictMalformed .discDecode) s
  else .fault (.indexOutside .rxPkt (s.rxIdx.toNat - 1))

/-! ## Transmitting the packet -/

/-- `TX_DONE` in `TX_PKT_BREAK` (R217). -/
def txDonePktBreak (s : State) : Res :=
  andThen (uartPut (s.byteAt .txPkt 0)
    { s with
      baudSel := .data
      txPktLen := BitVec.ofNat 9 ((s.byteAt .txPkt Config.mlOff).toNat + Config.cksumLen) })
    fun s => .next { s with txIdx := 1#10, txState := .txPktData, ieTxDone := false, ieTxRdy := true }

/-- `TX_READY` in `TX_PKT_DATA` (R218). -/
def txReadyPktData (s : State) : Res :=
  load .txPkt s.txIdx.toNat s fun b =>
    andThen (uartPut b s) fun s =>
      if s.txPktLen.toNat ≤ (s.txIdx + 1#10).toNat then
        .next { s with
          txIdx := s.txIdx + 1#10, txState := .txPktLast, ieTxRdy := false, ieTxDone := true }
      else .next { s with txIdx := s.txIdx + 1#10 }

/-- The ticks a response is waited for (R219, R31). -/
def waitTicks (k : RespKind) : Nat :=
  match k with
  | .addressed => Config.txnTimeout
  | .discovery => Config.discTimeout

/-- `TX_DONE` in `TX_PKT_LAST`: the turnaround (R219). -/
def txDonePktLast (s : State) : Res :=
  .next { setDir false s with
    ieTxDone := false, rxIdx := 0, rxAny := false, rxState := .rxIdle,
    toCnt := BitVec.ofNat 16 (waitTicks s.respKind), ieRx := true, txState := .txWaitResp }

/-! ## Waiting for the response -/

/-- The storing half of `RX_BYTE` in `TX_WAIT_RESP` (R220). -/
def storeResponseByte (b : Byte) (s : State) : State :=
  if s.rxIdx.toNat < Config.pktBufLen then
    { s.withByte .rxPkt s.rxIdx.toNat b with
      rxAny := true, rxIdx := s.rxIdx + 1#10, rxState := .rxReceiving }
  else { s with rxAny := true, rxState := .rxReceiving }

/-- An addressed response is complete: its length byte is in, and `ML + CKSUM_LEN` bytes are (R220, R108). -/
def responseComplete (s : State) : Bool :=
  decide (Config.mlOff < s.rxIdx.toNat)
    && decide ((s.byteAt .rxPkt Config.mlOff).toNat + Config.cksumLen ≤ s.rxIdx.toNat)

/-- The completion half of `RX_BYTE` in `TX_WAIT_RESP` (R220). -/
def finishIfComplete (s : State) : Res :=
  match s.respKind with
  | .addressed => if responseComplete s then resolve (validate s) s else .next s
  | .discovery => if Config.discRespMax ≤ s.rxIdx.toNat then resolveDiscovery s else .next s

/-- `RX_BYTE(b)` in `TX_WAIT_RESP` (R220). -/
def rxByteWait (b : Byte) (s : State) : Res := finishIfComplete (storeResponseByte b s)

/-- `RX_BREAK` in `TX_WAIT_RESP` (R221). -/
def rxBreakWait (s : State) : Res :=
  match s.respKind with
  | .addressed => .next { s with rxAny := true, rxIdx := 0, rxState := .rxStart }
  | .discovery => .next { s with rxAny := true }

/-- The timeout has elapsed (R222). -/
def timeout (s : State) : Res :=
  if !s.rxAny then resolve verdictNoReply s
  else
    match s.respKind with
    | .discovery => resolveDiscovery s
    | .addressed => resolve (verdictMalformed .incomplete) s

/-- `TICK` in `TX_WAIT_RESP` (R222); `TOCNT` never goes below 0 (R12 c, log 9). -/
def tickWait (s : State) : Res :=
  if s.toCnt = 0#16 then .fault .countBelowZero
  else if s.toCnt = 1#16 then timeout { s with toCnt := 0#16 }
  else .next { s with toCnt := s.toCnt - 1#16 }

end Sys2Proof.Machine
end

