-- ==== Sys2Proof/Machine/RxFraming.lean ====
section
/-! DEFINITION. The incoming framing state machine (43_rx_framing.md R200 to R206) and the tick (R222, R223): the
meanings of RX_BYTE, RX_BREAK and TICK. -/

namespace Sys2Proof.Machine

/-! ## Continuous receive -/

/-- `RX_BYTE(b)` in `RX_RECEIVING`: a slot; beyond the buffer the byte is dropped (R206). -/
def rxByteSlot (b : Byte) (s : State) : State :=
  if s.rxIdx.toNat ≤ Config.slotsMax then
    { s.withByte .rxFrame s.rxIdx.toNat b with rxIdx := s.rxIdx + 1#10 }
  else s

/-- `RX_BYTE(b)` in continuous receive, by `RXSTATE` (R204 to R206). -/
def rxByteFrame (b : Byte) (s : State) : Res :=
  match s.rxState with
  | .rxIdle => .next s
  | .rxStart => .next { s.withByte .rxFrame 0 b with rxIdx := 1#10, rxState := .rxReceiving }
  | .rxReceiving => .next (rxByteSlot b s)

/-- The report of a complete frame of `n` slots: `RXLEN`, `FRAME_RCVD` and the hook (R203, R278). -/
def reportFrame (n : BitVec 10) (s : State) : State :=
  if s.hookFrameEn then emit (.notify .frame n.toNat) { s with rxLen := n, frameRcvd := true }
  else { s with rxLen := n, frameRcvd := true }

/-- `RX_BREAK` in continuous receive, by `RXSTATE` (R201 to R203). In `RX_RECEIVING` a start code has been
stored, so `RXIDX >= 1` (R12 d, log 9). -/
def rxBreakFrame (s : State) : Res :=
  match s.rxState with
  | .rxIdle => .next { s with rxState := .rxStart, rxIdx := 0#10 }
  | .rxStart => .next { s with rxState := .rxStart, rxIdx := 0#10 }
  | .rxReceiving =>
    if s.rxIdx = 0#10 then .fault .countBelowZero
    else .next { reportFrame (s.rxIdx - 1#10) s with rxState := .rxStart, rxIdx := 0#10 }

/-! ## Dispatch -/

/-- Dispatch of a receive event: on `TXSTATE`, then on `TASKMODE` (R200). -/
def rxDispatch (wait frame : State → Res) (s : State) : Res :=
  if s.txState = .txWaitResp then wait s
  else if s.taskMode = .contRecv then frame s
  else .next s

/-- Event `RX_BYTE(b)` (R183, R200). -/
def execRxByte (b : Byte) (s : State) : Res :=
  deliver s.rxEnabled (fun s => rxDispatch (rxByteWait b) (rxByteFrame b) (emit (.rx b) s)) s

/-- Event `RX_BREAK` (R183, R200). -/
def execRxBreak (s : State) : Res :=
  deliver s.rxEnabled (fun s => rxDispatch rxBreakWait rxBreakFrame (emit .rxBrk s)) s

/-- The arms of `TICK`: the timeout, and nothing in any other state (R222, R223). -/
def tickArm (s : State) : Res := if s.txState = .txWaitResp then tickWait s else .next s

/-- Event `TICK` (R183, R222, R223). -/
def execTick (s : State) : Res := deliver s.tickEnabled tickArm s

end Sys2Proof.Machine
end

