-- ==== Sys2Proof/Machine/TxFraming.lean ====
section
/-! DEFINITION. The outgoing framing state machine and the serial peripheral's step (42_tx_framing.md R182 to
R188): the meanings of TX_READY, TX_DONE and SHIFTOUT. -/

namespace Sys2Proof.Machine

/-- `TX_DONE` in `TX_IDLE`: the last slot of a frame has left the wire (R184). -/
def txDoneIdle (s : State) : Res := frameBoundary { s with frameSent := true }

/-- `TX_DONE` in `TX_BREAK`: the start code at data baud (R185). -/
def txDoneBreak (s : State) : Res :=
  andThen (uartPut (s.byteAt .txFrame 0) { s with baudSel := .data }) fun s =>
    .next { s with txIdx := 1#10, txState := .txStart, ieTxDone := false, ieTxRdy := true }

/-- The second `if` of R187: the configured slot count is reached. -/
def endOfSlots (s : State) : State :=
  if s.slotCount.toNat < s.txIdx.toNat then
    { s with txState := .txIdle, ieTxRdy := false, ieTxDone := true }
  else s

/-- The body of R187: hand over the next slot if one is left, then see whether the frame is at its end. -/
def nextSlot (s : State) : Res :=
  if s.txIdx.toNat ≤ s.slotCount.toNat then
    load .txFrame s.txIdx.toNat s fun b =>
      andThen (uartPut b s) fun s => .next (endOfSlots { s with txIdx := s.txIdx + 1#10 })
  else .next (endOfSlots s)

/-- `TX_READY` in `TX_START` (R186). -/
def txReadyStart (s : State) : Res := nextSlot { s with txState := .txData }

/-- `TX_READY` in `TX_DATA` (R187). -/
def txReadyData (s : State) : Res := nextSlot s

/-- The arms of `TX_READY`, by `TXSTATE` (R183, R186 to R188, R218). -/
def txReadyArm (s : State) : Res :=
  match s.txState with
  | .txStart => txReadyStart s
  | .txData => txReadyData s
  | .txPktData => txReadyPktData s
  | .txIdle => .next s
  | .txBreak => .next s
  | .txPktBreak => .next s
  | .txPktLast => .next s
  | .txWaitResp => .next s

/-- The arms of `TX_DONE`, by `TXSTATE`, after the `TXC <- 0` of delivery (R183 to R185, R188, R217, R219). -/
def txDoneArm (s : State) : Res :=
  match s.txState with
  | .txIdle => txDoneIdle s
  | .txBreak => txDoneBreak s
  | .txPktBreak => txDonePktBreak s
  | .txPktLast => txDonePktLast s
  | .txStart => .next s
  | .txData => .next s
  | .txPktData => .next s
  | .txWaitResp => .next s

/-- Event `TX_READY` (R183, R187). -/
def execTxReady (s : State) : Res := deliver s.txReadyEnabled txReadyArm s

/-- Event `TX_DONE` (R183, R184). -/
def execTxDone (s : State) : Res :=
  deliver s.txDoneEnabled (fun s => txDoneArm { s with txc := false }) s

/-- The symbol a pair of `TXQ` leaves on the wire (R182). -/
def TxPair.sym (p : TxPair) : Sym :=
  match p.baud with
  | .brk => .brk
  | .data => .tx p.byte

/-- `SHIFTOUT`: the oldest pair of `TXQ` leaves the wire (R182). -/
def shiftoutArm (s : State) : Res :=
  match s.txq with
  | [] => .next s
  | p :: rest => .next { emit p.sym s with txq := rest, txc := s.txc || rest.isEmpty }

/-- Step `SHIFTOUT` of agent UART (R182, R183). -/
def execShiftout (s : State) : Res := deliver s.shiftoutEnabled shiftoutArm s

end Sys2Proof.Machine
end

