-- ==== Sys2Proof/Machine/Dispatch.lean ====
section
/-! DEFINITION. One arm per instruction (R103, R102, R171). -/

namespace Sys2Proof.Machine

def exec (i : Instr) (s : State) : Host.Outcome State Fault Refusal :=
  match i with
  | .setslot slot value => Sys2Proof.Machine.execSetslot slot value s
  | .getslot slot => Sys2Proof.Machine.execGetslot slot s
  | .rxslot index => Sys2Proof.Machine.execRxslot index s
  | .setcount count => Sys2Proof.Machine.execSetcount count s
  | .getcount => Sys2Proof.Machine.execGetcount s
  | .rdrxlen => Sys2Proof.Machine.execRdrxlen s
  | .startout => Sys2Proof.Machine.execStartout s
  | .startin => Sys2Proof.Machine.execStartin s
  | .stop => Sys2Proof.Machine.execStop s
  | .setdirpin pin => Sys2Proof.Machine.execSetdirpin pin s
  | .sethook hook flags => Sys2Proof.Machine.execSethook hook flags s
  | .pktwr offset value => Sys2Proof.Machine.execPktwr offset value s
  | .pktrd offset => Sys2Proof.Machine.execPktrd offset s
  | .nexttn => Sys2Proof.Machine.execNexttn s
  | .sendtxn flags => Sys2Proof.Machine.execSendtxn flags s
  | .rdpktlen => Sys2Proof.Machine.execRdpktlen s
  | .rddisc k => Sys2Proof.Machine.execRddisc k s
  | .rdstatus => Sys2Proof.Machine.execRdstatus s
  | .clrflag mask => Sys2Proof.Machine.execClrflag mask s
  | .txReady => Sys2Proof.Machine.execTxReady s
  | .txDone => Sys2Proof.Machine.execTxDone s
  | .rxByte data => Sys2Proof.Machine.execRxByte data s
  | .rxBreak => Sys2Proof.Machine.execRxBreak s
  | .tick => Sys2Proof.Machine.execTick s
  | .shiftout => Sys2Proof.Machine.execShiftout s

end Sys2Proof.Machine
end

