-- ==== Sys2Proof/Machine/Fetch.lean ====
section
/-! DEFINITION. Which input comes next and what is done with it (R7, R171, R275, R315). -/

namespace Sys2Proof.Machine

/-- The input of the next step and the state without it; none when no agent takes a step (log 1, 2). -/
def fetch (s : State) : Option (Input × State) :=
  match s.schedule with
  | [] => none
  | x :: rest => some (x, { s with schedule := rest })

/-- One input, decoded and run (R171, R183). -/
def runInput (x : Input) (s : State) : Res :=
  match decode x with
  | .ok i => exec i s
  | .error r => execUndecoded r s

/-- The state with an input placed where the next step fetches. -/
def placeInput (x : Input) (s : State) : State := { s with schedule := x :: s.schedule }

end Sys2Proof.Machine
end

