-- ==== Sys2Proof/Machine/Step.lean ====
section
/-! DEFINITION. One atomic step of one agent (R7): the next input of the schedule. With none listed no agent takes
a step and nothing changes (DESIGN CHOICE, safe, log 2). -/

namespace Sys2Proof.Machine

/-- One step. -/
def step (s : State) : Host.Outcome State Fault Refusal :=
  match fetch s with
  | none => .next s
  | some (x, s') => runInput x s'

/-- The state with an opcode-table word placed as the very next input (log 1, 16). -/
def State.withFetchWord (s : State) (nbits w : Nat) : State := placeInput (tableInput nbits w) s

end Sys2Proof.Machine
end

