-- ==== Sys2Proof/Machine/Schedule.lean ====
section
/-! DEFINITION. Runs (R315): a list of inputs one after another, and the eager schedule of the spec's vectors. -/

namespace Sys2Proof.Machine


/-- A run over a list of inputs, stopping at the first fault or refusal (R315). -/
def runInputs : List Input → State → Res
  | [], s => .next s
  | x :: rest, s => andThen (runInput x s) (runInputs rest)

/-- The step the eager schedule takes next: the first enabled of `TX_DONE`, `TX_READY`, `SHIFTOUT` (R315). -/
def eagerChoice (s : State) : Option Instr :=
  if s.txDoneEnabled then some .txDone
  else if s.txReadyEnabled then some .txReady
  else if s.shiftoutEnabled then some .shiftout
  else none

/-- The eager schedule, until a condition holds, nothing is enabled, or `n` steps are taken (R315). -/
def eagerUntil (stop : State → Bool) : Nat → State → Res
  | 0, s => .next s
  | n + 1, s =>
    if stop s then .next s
    else
      match eagerChoice s with
      | none => .next s
      | some i => andThen (exec i s) (eagerUntil stop n)

end Sys2Proof.Machine
end

