-- ==== Sys2Proof/Machine/PseudoOps.lean ====
section
/-! DEFINITION. The pseudo-operations (45_pseudo_ops.md R250 to R259): programs of agent HOST over the commands,
one command per step, with any engine steps between two commands. They are software, not state of the engine
(log 12). `PKT_LAYOUT`, the header constants and `HOST_SPIN_MAX` are their arguments; a machine's own values are
`Config.layout`, `Config.header` and `Config.hostSpinMax` (R6). -/

namespace Sys2Proof.Machine

/-- A host program: it ends with a result, ends because a command was rejected (R250), issues a command and goes on
with the response word, or spins on `RDSTATUS` and goes on with the last status read (R253, R259). -/
inductive HostProg (α : Type) where
  | done (a : α)
  | rejected (cause : BitVec 4)
  | issue (i : Instr) (k : RespWord → HostProg α)
  /-- `repeat s <- DATA(RDSTATUS) until stop s or` the bound is reached. -/
  | spin (stop : Data → Bool) (max : Config.SpinMax) (k : Data → HostProg α)

/-- One host program after another; a reject ends both (R250). -/
def HostProg.bind {α β : Type} : HostProg α → (α → HostProg β) → HostProg β
  | .done a, f => f a
  | .rejected c, _ => .rejected c
  | .issue i k, f => .issue i fun w => (k w).bind f
  | .spin stop max k, f => .spin stop max fun d => (k d).bind f

/-! ## One command of a host program -/

/-- The command a program issues next; none when it has returned. -/
def HostProg.nextCommand {α : Type} : HostProg α → Option Instr
  | .done _ => none
  | .rejected _ => none
  | .issue i _ => some i
  | .spin _ _ _ => some .rdstatus

/-- This read is the last: `n >= HOST_SPIN_MAX` after it. With no bound no read is (R253, R259). -/
def spinSpent : Config.SpinMax → Bool
  | .finite n => decide (n ≤ 1)
  | .unbounded => false

/-- The bound left after one read that was not the last. -/
def spinLess : Config.SpinMax → Config.SpinMax
  | .finite n => .finite (n - 1)
  | .unbounded => .unbounded

/-- The program after the response word of its command. -/
def HostProg.answered {α : Type} : HostProg α → RespWord → HostProg α
  | .done a, _ => .done a
  | .rejected c, _ => .rejected c
  | .issue _ k, w => k w
  | .spin stop max k, w =>
    if respRej w then .rejected (respCause w)
    else if stop (respData w) || spinSpent max then k (respData w)
    else .spin stop (spinLess max) k

/-- How a host program ends. -/
inductive HostEnd (α : Type) where
  | done (a : α)
  | rejected (cause : BitVec 4)
  deriving DecidableEq, Repr

/-- What a program that has returned returns. -/
def HostProg.ended {α : Type} : HostProg α → Option (HostEnd α)
  | .done a => some (.done a)
  | .rejected c => some (.rejected c)
  | .issue _ _ => none
  | .spin _ _ _ => none

/-- A host program run on the engine for as many commands as `env` has lists: before its n-th command the steps of
the n-th list are taken (the other agents' steps, R77). What is left of the program is returned with the state;
none when a step stops. -/
def HostProg.play {α : Type} (p : HostProg α) (env : List (List Input)) (s : State) :
    Option (HostProg α × State) :=
  match env with
  | [] => some (p, s)
  | inputs :: rest =>
    match p.nextCommand with
    | none => some (p, s)
    | some i =>
      match andThen (runInputs inputs s) (exec i) with
      | .next t => (p.answered (t.resp.getD 0)).play rest t
      | .fault _ => none
      | .refused _ => none

/-! ## Commands in a row -/

/-- `w <- CMD a, v`: the `DATA` of an accepted command; a reject ends the pseudo-op (R250). -/
def command (i : Instr) : HostProg Data :=
  .issue i fun w => if respRej w then .rejected (respCause w) else .done (respData w)

/-- Commands one after another, their `DATA` not used. -/
def commands : List Instr → HostProg Unit
  | [] => .done ()
  | i :: rest => (command i).bind fun _ => commands rest

/-- A small offset as a command operand. -/
def offset (n : Nat) : Half := BitVec.ofNat 16 n

/-- `PKTWR` of consecutive bytes from an offset. -/
def pktwrBytes : Nat → List Byte → List Instr
  | _, [] => []
  | off, b :: rest => .pktwr (offset off) b :: pktwrBytes (off + 1) rest

/-- The six bytes of an address, most significant first (R109). -/
def uidBytes (u : Uid) : List Byte := (List.range 6).map (uidByte u)

/-- `WRUID off, uid` (R251). -/
def wruid (off : Nat) (uid : Uid) : List Instr := pktwrBytes off (uidBytes uid)

/-- The high byte of a 2-byte field (R72). -/
def highByte (h : Half) : Byte := h.extractLsb' 8 8

/-- The low byte of a 2-byte field (R72). -/
def lowByte (h : Half) : Byte := h.extractLsb' 0 8

/-- The fields of a packet before its checksum, each with its offset in the layout, in the order of R252. -/
def packetFields (L : Config.Layout) (h : Config.Header) (t : Byte) (dest : Uid) (cc : Byte) (pid : Half)
    (pd : List Byte) : List (Nat × List Byte) :=
  [(L.sc, [h.scPkt]), (L.subsc, [h.subscPkt]), (L.ml, [BitVec.ofNat 8 (Config.pktMinMl + pd.length)]),
    (L.dest, uidBytes dest), (L.src, uidBytes h.controllerUid), (L.tn, [t]), (L.port, [h.portId]),
    (L.mc, [h.msgCount]), (L.sub, [highByte h.subdev, lowByte h.subdev]), (L.cc, [cc]),
    (L.pid, [highByte pid, lowByte pid]), (L.pdl, [BitVec.ofNat 8 pd.length]), (L.pd, pd)]

/-- `PKTWR` of every byte of a list of fields, in order. -/
def pktwrFields (fields : List (Nat × List Byte)) : List Instr :=
  fields.flatMap fun f => pktwrBytes f.1 f.2

/-- The byte a list of fields puts at an offset. -/
def fieldByte : List (Nat × List Byte) → Nat → Byte
  | [], _ => 0x00#8
  | (off, l) :: rest, k => if off ≤ k ∧ k < off + l.length then l.getD (k - off) 0x00#8 else fieldByte rest k

/-- The 24 + n bytes of a packet before its checksum, in offset order (R106, R252). -/
def packetBody (L : Config.Layout) (h : Config.Header) (t : Byte) (dest : Uid) (cc : Byte) (pid : Half)
    (pd : List Byte) : List Byte :=
  (List.range (Config.pktMinMl + pd.length)).map (fieldByte (packetFields L h t dest cc pid pd))

/-- `CKSUM_LEN` bytes of a checksum, most significant first (R107). -/
def checksumBytes (l : List Byte) : List Byte :=
  (List.range Config.cksumLen).map fun j =>
    BitVec.ofNat 8 (checksum l / 256 ^ (Config.cksumLen - 1 - j))

/-- The `PKTWR`s of `BUILDPKT`: the fields at their offsets, then the checksum at 24 + n (R252). -/
def packetWrites (L : Config.Layout) (h : Config.Header) (t : Byte) (dest : Uid) (cc : Byte) (pid : Half)
    (pd : List Byte) : List Instr :=
  pktwrFields (packetFields L h t dest cc pid pd)
    ++ pktwrBytes (Config.pktMinMl + pd.length) (checksumBytes (packetBody L h t dest cc pid pd))

/-- `BUILDPKT dest, cc, pid, pd` (R252): the next counter value, then the `PKTWR`s; returns the counter value used. -/
def buildpkt (L : Config.Layout) (h : Config.Header) (dest : Uid) (cc : Byte) (pid : Half) (pd : List Byte) :
    HostProg Byte :=
  (command .nexttn).bind fun d =>
    (commands (packetWrites L h (d.setWidth 8) dest cc pid pd)).bind fun _ => .done (d.setWidth 8)

/-- `repeat s <- DATA(RDSTATUS) until stop s or n >= HOST_SPIN_MAX` (R253, R259). -/
def spinUntil (stop : Data → Bool) (max : Config.SpinMax) : HostProg Data := .spin stop max .done

/-- `s[19:17]`, the `RESULT` field of a `STATUS` word (R47). -/
def statusResult (d : Data) : BitVec 3 := d.extractLsb' 17 3

/-- `s[11]`, the `FRAME_SENT` bit of a `STATUS` word (R47). -/
def statusFrameSent (d : Data) : Bool := d.getLsbD 11

/-- The results of the calls (R250, R253). -/
inductive CallResult where
  | success | noReply | spinExhausted
  deriving DecidableEq, Repr

/-- What the caller of `SENDWAIT` learns from the last `STATUS` read (R253, R229). -/
def callResultOf (d : Data) : CallResult :=
  if statusResult d = TxnResult.valid.code then .success
  else if statusResult d = TxnResult.pending.code then .spinExhausted
  else .noReply

/-- The condition `SENDWAIT` spins on: `s[19:17] != PENDING` (R253). -/
def statusResolved (d : Data) : Bool := statusResult d != TxnResult.pending.code

/-- `SENDWAIT f` (R253). -/
def sendwait (max : Config.SpinMax) (f : Byte) : HostProg CallResult :=
  (command (.sendtxn f)).bind fun _ => (spinUntil statusResolved max).bind fun d => .done (callResultOf d)

/-- The results of `DISCOVER` (R254). -/
inductive DiscoverResult where
  | reply (found : Option Uid) | noReply | spinExhausted
  deriving DecidableEq, Repr

/-- `RDDISC` from byte `k` up, `n` bytes, into an address (R254, R109). -/
def readDisc : Nat → Nat → Nat → HostProg Uid
  | _, 0, acc => .done (BitVec.ofNat 48 acc)
  | k, n + 1, acc =>
    (command (.rddisc (offset k))).bind fun d => readDisc (k + 1) n (acc * 256 + d.toNat % 256)

/-- `DISCOVER lo, hi, r` (R254): a malformed reply is a reply. -/
def discover (L : Config.Layout) (h : Config.Header) (max : Config.SpinMax) (lo hi : Uid) (r : Byte) :
    HostProg DiscoverResult :=
  (buildpkt L h Config.broadcastUid h.ccDisc h.pidDiscBranch (uidBytes lo ++ uidBytes hi)).bind
    fun _ =>
      (sendwait max (r ||| 0x02#8)).bind fun x =>
        if x = .spinExhausted then .done .spinExhausted
        else
          (command .rdstatus).bind fun d =>
            if statusResult d = TxnResult.valid.code then
              (readDisc 0 6 0).bind fun u => .done (.reply (some u))
            else if statusResult d = TxnResult.malformed.code then .done (.reply none)
            else .done .noReply

/-- `MUTE uid, r` (R255). -/
def mute (L : Config.Layout) (h : Config.Header) (max : Config.SpinMax) (uid : Uid) (r : Byte) : HostProg CallResult :=
  (buildpkt L h uid h.ccDisc h.pidMute []).bind fun _ => sendwait max r

/-- `UNMUTE r` (R256): no special case for a broadcast. -/
def unmute (L : Config.Layout) (h : Config.Header) (max : Config.SpinMax) (r : Byte) : HostProg CallResult :=
  (buildpkt L h Config.broadcastUid h.ccDisc h.pidUnmute []).bind fun _ => sendwait max r

/-- `PKTRD` of `n` bytes from an offset, oldest first. -/
def readPkt : Nat → Nat → HostProg (List Byte)
  | _, 0 => .done []
  | off, n + 1 =>
    (command (.pktrd (offset off))).bind fun d =>
      (readPkt (off + 1) n).bind fun l => .done (d.setWidth 8 :: l)

/-- `GET uid, pid, r` (R257): with success, the readback `RXPKT[PD_OFF .. PD_OFF + PDL - 1]`. -/
def get (L : Config.Layout) (h : Config.Header) (max : Config.SpinMax) (uid : Uid) (pid : Half) (r : Byte) :
    HostProg (CallResult × List Byte) :=
  (buildpkt L h uid h.ccGet pid []).bind fun _ =>
    (sendwait max r).bind fun x =>
      if x = .success then
        (command (.pktrd (offset L.pdl))).bind fun d =>
          (readPkt L.pd (d.toNat % 256)).bind fun l => .done (x, l)
      else .done (x, [])

/-- `SET uid, pid, pd, r` (R258). -/
def set (L : Config.Layout) (h : Config.Header) (max : Config.SpinMax) (uid : Uid) (pid : Half) (pd : List Byte)
    (r : Byte) : HostProg CallResult :=
  (buildpkt L h uid h.ccSet pid pd).bind fun _ => sendwait max r

/-- `WAITFRAME` (R259): whether `FRAME_SENT` was seen. -/
def waitframe (max : Config.SpinMax) : HostProg Bool :=
  (spinUntil statusFrameSent max).bind fun d => .done (statusFrameSent d)

end Sys2Proof.Machine
end

