-- ==== Sys2Proof/Machine/Fairness.lean ====
section
/-! DEFINITION. Infinite runs of the engine, alone and under one host program, and the fairness of the agents, F1 to
F4 (R315, R316). A run is two sequences, the states and the inputs between them: claims are stated on them, no
state holds them (log 18). -/

namespace Sys2Proof.Machine

/-- An infinite run: input `x n` takes state `σ n` to state `σ (n + 1)`, and no step stops (R315). -/
def IsRun (σ : Nat → State) (x : Nat → Input) : Prop := ∀ n, runInput (x n) (σ n) = .next (σ (n + 1))

/-- From step `n` on, an instruction is taken at some step. -/
def TakenAfter (x : Nat → Input) (i : Instr) (n : Nat) : Prop := ∃ m, n ≤ m ∧ decode (x m) = .ok i

/-- From step `n` on, a condition stays true. -/
def StaysFrom (σ : Nat → State) (p : State → Bool) (n : Nat) : Prop := ∀ m, n ≤ m → p (σ m) = true

/-- `TXSTATE = TX_WAIT_RESP`. -/
def State.waitsForResponse (s : State) : Bool := decide (s.txState = .txWaitResp)

/-- F1 to F3: the engine's own agents are fair. Nothing is assumed of the `LINE` (R316). -/
structure FairAgents (σ : Nat → State) (x : Nat → Input) : Prop where
  /-- F1: a `SHIFTOUT` that is enabled is eventually taken. -/
  shiftout : ∀ n, (σ n).shiftoutEnabled = true → TakenAfter x .shiftout n
  /-- F2: a `TX_READY` that stays enabled is eventually taken. -/
  txReady : ∀ n, StaysFrom σ State.txReadyEnabled n → TakenAfter x .txReady n
  /-- F2: a `TX_DONE` that stays enabled is eventually taken. -/
  txDone : ∀ n, StaysFrom σ State.txDoneEnabled n → TakenAfter x .txDone n
  /-- F3: while `TXSTATE` stays `TX_WAIT_RESP`, a `TICK` is eventually offered. -/
  tick : ∀ n, StaysFrom σ State.waitsForResponse n → TakenAfter x .tick n

/-- One step under a host program: either the program's next command is the input, and the program goes on with the
response word, or the input is an event, and the program waits (R77, R250, R315). -/
def HostStep {α : Type} (p q : HostProg α) (y : Input) (t : State) : Prop :=
  (∃ i w, p.nextCommand = some i ∧ encode i = .host w ∧ y = .host w ∧ q = p.answered (t.resp.getD 0)) ∨
    ∃ w, y = .event w ∧ q = p

/-- A run in which the foreground runs one program: `π n` is what is left of it before step `n` (R250, R315). -/
structure IsHostRun {α : Type} (π : Nat → HostProg α) (σ : Nat → State) (x : Nat → Input) : Prop where
  run : IsRun σ x
  host : ∀ n, HostStep (π n) (π (n + 1)) (x n) (σ (n + 1))

/-- F4: the program eventually issues its next command (R316). -/
def FairHost {α : Type} (π : Nat → HostProg α) (x : Nat → Input) : Prop :=
  ∀ n, (π n).ended = none → ∃ m w, n ≤ m ∧ x m = .host w

/-- The program returns `r`, and it stays returned. -/
def Returns {α : Type} (π : Nat → HostProg α) (r : HostEnd α) : Prop := ∃ n, ∀ m, n ≤ m → (π m).ended = some r

end Sys2Proof.Machine
end

