-- ==== Sys2Proof/Safety.lean ====
section
/-! DEFINITION. What counts as a good state, and the vocabulary the statements use: the invariants of R51 with what
makes them inductive, where an instruction stores, the transition table of R189, the wire form of frames and
packets (R105, R106). -/

namespace Sys2Proof.Machine

/-! ## Sets of sequencer states -/

/-- The states in which the next byte of a frame or packet waits for room (R51 I2). -/
def TxState.emitting : TxState → Bool
  | .txStart => true
  | .txData => true
  | .txPktData => true
  | .txIdle => false
  | .txBreak => false
  | .txPktBreak => false
  | .txPktLast => false
  | .txWaitResp => false

/-- The states in which everything handed over is waited for (R51 I3). -/
def TxState.draining : TxState → Bool
  | .txIdle => true
  | .txBreak => true
  | .txPktBreak => true
  | .txPktLast => true
  | .txStart => false
  | .txData => false
  | .txPktData => false
  | .txWaitResp => false

/-- The four states of a transaction (R22, 44_transaction.md). -/
def TxState.inTransaction : TxState → Bool
  | .txPktBreak => true
  | .txPktData => true
  | .txPktLast => true
  | .txWaitResp => true
  | .txIdle => false
  | .txBreak => false
  | .txStart => false
  | .txData => false

/-! ## The invariants -/

/-- The invariants of R51 (I1 to I9), the register ranges of R24 to R31, the canonical form of the buffers, and the
facts about the state machine that make them inductive. -/
structure Inv (s : State) : Prop where
  /-- I1. -/
  listening : s.ieRx = true → s.ieTxRdy = false ∧ s.ieTxDone = false
  /-- I2. -/
  ready : s.ieTxRdy = true → s.txState.emitting = true
  /-- I3. -/
  done : s.ieTxDone = true → s.txState.draining = true
  /-- I4. -/
  waiting : s.txState = .txWaitResp →
    s.ieRx = true ∧ s.dir = false ∧ s.txq = [] ∧ s.toCnt ≠ 0#16 ∧ s.rxIdx.toNat ≤ Config.pktBufLen
  /-- I5, the second half. -/
  breaks : ∀ p ∈ s.txq, p.baud = .brk → p.byte = 0x00#8
  /-- I6, and R208: nothing is held for the wire. -/
  receiving : s.taskMode = .contRecv →
    s.txState = .txIdle ∧ s.ieTxRdy = false ∧ s.ieTxDone = false ∧ s.txq = []
  /-- I7. -/
  pending : s.txnActive = true ↔ s.result = .pending
  /-- I7, and `SENDTXN`'s test of the length byte, which nothing can undo (R166, R84). -/
  active : s.txnActive = true →
    s.run = true ∧ Config.pktMinMl ≤ (s.byteAt .txPkt Config.mlOff).toNat
  /-- I8, the floor. -/
  slotFloor : Config.slotsMin ≤ s.slotCount.toNat
  /-- I8, the ceiling. -/
  slotCeiling : s.slotCount.toNat ≤ Config.slotsMax
  /-- I9, R24 and R25: the frame indices. -/
  indices : s.txIdx.toNat ≤ 513 ∧ s.rxIdx.toNat ≤ 513
  /-- R186: the first slot is still to come. -/
  firstSlot : s.txState = .txStart → s.txIdx = 1#10
  /-- R187: slot 0 is never sent as a slot. -/
  slotIndex : s.txState = .txData → 1 ≤ s.txIdx.toNat
  /-- I9, R218: a packet byte is still to come. -/
  packetIndex : s.txState = .txPktData → s.txIdx.toNat < s.txPktLen.toNat
  /-- I9, R203: a start code has been stored. -/
  startCode : s.taskMode = .contRecv → s.rxState = .rxReceiving → s.rxIdx ≠ 0#10
  /-- R27, R29, R30: the lengths. -/
  lengths : s.rxLen.toNat ≤ Config.slotsMax ∧ s.txPktLen.toNat ≤ Config.pktBufLen
    ∧ s.rxPktLen.toNat ≤ Config.pktBufLen
  /-- R43: the depth of `TXQ`. -/
  depth : s.txq.length ≤ Config.txqDepth
  /-- R43: transmit complete means nothing is held. -/
  complete : s.txc = true → s.txq = []
  /-- R166, R180: a running, quiescent engine holds nothing. -/
  quiet : s.run = true → s.quiescent = true → s.txq = []
  /-- R228: the packet states belong to a transaction. -/
  inPacket : s.txState.inTransaction = true → s.txnActive = true ∧ s.frameSent = false
  /-- R184 to R187, R217, R218: while a frame or packet goes out, a transmit event is waited for. -/
  expecting : s.txState ≠ .txIdle → s.txState ≠ .txWaitResp → s.ieTxRdy = true ∨ s.ieTxDone = true
  /-- R166, R180: an active transaction is never at rest. -/
  underWay : s.txnActive = true → s.quiescent = false
  /-- R181, R182: when a transmit event is waited for, something handed over has yet to leave or has just left. -/
  handed : s.ieTxRdy = true ∨ s.ieTxDone = true → s.txq ≠ [] ∨ s.txc = true
  /-- R200: who listens. -/
  listener : s.ieRx = true → s.taskMode = .contRecv ∨ s.txState = .txWaitResp
  /-- R41: a cause belongs to a malformed response. -/
  cause : s.malfCause ≠ .none ↔ s.result = .malformed
  /-- R162, R21: a stopped engine is still. -/
  stopped : s.run = false →
    s.txState = .txIdle ∧ s.ieTxRdy = false ∧ s.ieTxDone = false ∧ s.ieRx = false
  /-- R169: the line is driven but in continuous receive and while a response is waited for. -/
  drives : s.run = true → s.taskMode ≠ .contRecv → s.txState ≠ .txWaitResp → s.dir = true
  /-- R169, R208: the line is released in continuous receive. -/
  released : s.run = true → s.taskMode = .contRecv → s.dir = false
  /-- R35: slots and packet bytes go at data baud. -/
  dataBaud : s.txState.emitting = true ∨ s.txState = .txPktLast → s.baudSel = .data
  /-- R70: every buffer is in canonical form and inside its bounds. -/
  memory : ∀ b, (s.memory b).wf = true ∧ (s.memory b).below b.size = true

/-! ## Where an instruction stores -/

/-- The one buffer byte an instruction may store to (R71), with the index its meaning uses. -/
def storeTarget (i : Instr) (s : State) : Option (Buf × Nat) :=
  match i with
  | .setslot slot _ => some (.txFrame, slot.toNat)
  | .pktwr offset _ => some (.txPkt, offset.toNat)
  | .rxByte _ =>
    if s.txState = .txWaitResp then some (.rxPkt, s.rxIdx.toNat)
    else if s.rxState = .rxStart then some (.rxFrame, 0)
    else some (.rxFrame, s.rxIdx.toNat)
  | .getslot _ | .rxslot _ | .setcount _ | .getcount | .rdrxlen | .startout | .startin | .stop
  | .setdirpin _ | .sethook _ _ | .pktrd _ | .nexttn | .sendtxn _ | .rdpktlen | .rddisc _ | .rdstatus
  | .clrflag _ | .txReady | .txDone | .rxBreak | .tick | .shiftout => none

/-- An instruction of agent HOST, a command (R100); every other instruction is an event. -/
def isCommand : Instr → Bool
  | .txReady | .txDone | .rxByte _ | .rxBreak | .tick | .shiftout => false
  | .setslot _ _ | .getslot _ | .rxslot _ | .setcount _ | .getcount | .rdrxlen | .startout | .startin
  | .stop | .setdirpin _ | .sethook _ _ | .pktwr _ _ | .pktrd _ | .nexttn | .sendtxn _ | .rdpktlen
  | .rddisc _ | .rdstatus | .clrflag _ => true

/-! ## The transition table of TXSTATE (R189) -/

/-- Whether the last command was accepted: the response word of the state after it has `REJ = 0` (R101). -/
def State.accepted (t : State) : Bool := !respRej (t.resp.getD 0)

/-- The `To` column of R189 for an instruction run in `s`, with `t` the state after it ("accepted" is a response
with `REJ = 0`, "resolves" an outcome other than `PENDING`); a pair not listed keeps `TXSTATE`. -/
def txTable (i : Instr) (s t : State) : TxState :=
  match i with
  | .startout => if t.accepted then .txBreak else s.txState
  | .startin => if t.accepted then .txIdle else s.txState
  | .stop => if t.accepted then .txIdle else s.txState
  | .sendtxn _ => if t.accepted && s.quiescent then .txPktBreak else s.txState
  | .txDone =>
    if s.txDoneEnabled then
      match s.txState with
      | .txIdle => if s.txnActive then .txPktBreak else .txBreak
      | .txBreak => .txStart
      | .txPktBreak => .txPktData
      | .txPktLast => .txWaitResp
      | other => other
    else s.txState
  | .txReady =>
    if s.txReadyEnabled then
      match s.txState with
      | .txStart => if 2 ≤ s.slotCount.toNat then .txData else .txIdle
      | .txData => if s.txIdx.toNat + 1 ≤ s.slotCount.toNat then .txData else .txIdle
      | .txPktData => if s.txIdx.toNat + 1 < s.txPktLen.toNat then .txPktData else .txPktLast
      | other => other
    else s.txState
  | .rxByte _ | .tick =>
    if s.txState = .txWaitResp ∧ t.result ≠ .pending then
      if s.taskMode = .sendTxnResume then .txBreak else .txIdle
    else s.txState
  | .setslot _ _ | .getslot _ | .rxslot _ | .setcount _ | .getcount | .rdrxlen | .setdirpin _
  | .sethook _ _ | .pktwr _ _ | .pktrd _ | .nexttn | .rdpktlen | .rddisc _ | .rdstatus | .clrflag _
  | .rxBreak | .shiftout => s.txState

/-! ## The wire -/

/-- What `SetDir(l)` appends to `TRACE`: the new level, when it changes and a pin is set (R169). -/
def dirSyms (l : Bool) (s : State) : List Sym :=
  if s.dir = l ∨ s.dirPin = Config.dirPinNone then [] else [.dir l]

/-- A symbol the engine puts on the wire (R8). -/
def Sym.transmitted : Sym → Bool
  | .brk => true
  | .tx _ => true
  | .dir _ => false
  | .rxBrk => false
  | .rx _ => false
  | .notify _ _ => false

/-- A frame on the wire: break, start code, slots 1 to `n` (R105). -/
def frameSyms (s : State) (n : Nat) : List Sym :=
  .brk :: .tx (s.byteAt .txFrame 0) :: (List.range n).map fun k => .tx (s.byteAt .txFrame (k + 1))

/-- A packet's bytes on the wire after its break (R227 a). -/
def packetSyms (s : State) (n : Nat) : List Sym :=
  (List.range n).map fun k => .tx (s.byteAt .txPkt k)

/-- The transmit symbols of `TRACE`, and after them those of the pairs still in `TXQ`: everything handed over
since reset, oldest first (R43, R182). -/
def State.wire (s : State) : List Sym :=
  s.trace.filter Sym.transmitted ++ s.txq.map TxPair.sym

/-- What an instruction run in `s` hands to the peripheral, with `t` the state after it (R181 and its callers:
R160, R166, R184 to R187, R217, R218, R225). -/
def handedOver (i : Instr) (s t : State) : List Sym :=
  match i with
  | .startout => if t.accepted then [.brk] else []
  | .sendtxn _ => if t.accepted && s.quiescent then [.brk] else []
  | .txDone =>
    if s.txDoneEnabled then
      match s.txState with
      | .txIdle => [.brk]
      | .txBreak => [.tx (s.byteAt .txFrame 0)]
      | .txPktBreak => [.tx (s.byteAt .txPkt 0)]
      | .txStart | .txData | .txPktData | .txPktLast | .txWaitResp => []
    else []
  | .txReady =>
    if s.txReadyEnabled then
      match s.txState with
      | .txStart | .txData =>
        if s.txIdx.toNat ≤ s.slotCount.toNat then [.tx (s.byteAt .txFrame s.txIdx.toNat)] else []
      | .txPktData => [.tx (s.byteAt .txPkt s.txIdx.toNat)]
      | .txIdle | .txBreak | .txPktBreak | .txPktLast | .txWaitResp => []
    else []
  | .rxByte _ | .tick =>
    if s.txState = .txWaitResp ∧ t.result ≠ .pending ∧ s.taskMode = .sendTxnResume then [.brk] else []
  | .setslot _ _ | .getslot _ | .rxslot _ | .setcount _ | .getcount | .rdrxlen | .startin | .stop
  | .setdirpin _ | .sethook _ _ | .pktwr _ _ | .pktrd _ | .nexttn | .rdpktlen | .rddisc _ | .rdstatus
  | .clrflag _ | .rxBreak | .shiftout => []

/-- The inputs that send one slot or packet byte: it is handed over, then it leaves the wire. -/
def oneByte : List Input := [encode .txReady, encode .shiftout]

/-- `n` times `oneByte`. -/
def manyBytes : Nat → List Input
  | 0 => []
  | n + 1 => oneByte ++ manyBytes n

/-- A run of received bytes as inputs. -/
def rxBytes (l : List Byte) : List Input := l.map fun b => encode (.rxByte b)

/-! ## Infinite runs -/

/-- Step `n` ends a frame: `TX_DONE` is delivered in `TX_IDLE` (R184). -/
def FrameEndsAt (σ : Nat → State) (x : Nat → Input) (n : Nat) : Prop :=
  (σ n).txState = .txIdle ∧ (σ n).txDoneEnabled = true ∧ decode (x n) = .ok .txDone

/-- `WAITFRAME`'s precondition, frames are sent or will be by themselves (R259). -/
def State.sendsFrames (s : State) : Prop :=
  s.run = true ∧ (s.taskMode = .sendTxnResume ∨ s.taskMode = .contSend ∧ s.quiescent = false)

/-- From step `n` on no command is accepted that ends the frames: `STOP`, or `SENDTXN` without `RESUME` (R310, R316). -/
def NotStoppedFrom (σ : Nat → State) (x : Nat → Input) (n : Nat) : Prop :=
  ∀ m i, n ≤ m → decode (x m) = .ok i → (i = .stop ∨ ∃ f : Byte, f.getLsbD 0 = false ∧ i = .sendtxn f) →
    (σ (m + 1)).accepted = false

/-- A pseudo-operation returns in every fair run of it from a state of the invariant (R260 e). -/
def ReturnsWhenFair {α : Type} (p : HostProg α) : Prop :=
  ∀ (π : Nat → HostProg α) (σ : Nat → State) (x : Nat → Input), IsHostRun π σ x → FairAgents σ x → FairHost π x →
    Inv (σ 0) → π 0 = p → ∃ r, Returns π r

end Sys2Proof.Machine
end

