-- ==== Sys2Proof/Certificates/Slice0/Obligations.lean ====
section
/-! DEFINITION. The statements for the provers, from the numbered rules of the spec. Response words are written as
literals: REJ is bit 31, CAUSE bits 30:27, DATA bits 26:0 (R101); a byte or a count read is zero-extended. Packet
offsets and buffer sizes are the values R6 gives (CKSUM_LEN = 1 and the layout of R106; log 7, 8). -/

open Sys2Proof Sys2Proof.Machine

/-! ## Encoding and dispatch -/

/-- Every well-formed instruction is read back from the word written for it (R100, R102, R103). -/
def Obligations.DecodeOfEncode : Prop :=
  ∀ i : Instr, i.wf = true → decode (encode i) = .ok i

/-- R171, R103, R104: a command word is its three fields; its opcode alone says whether it is a command; a listed
opcode runs that command's meaning, an unlisted one is rejected with `BAD_OPCODE` and changes `CMD_ERR` only. -/
def Obligations.CommandDispatch : Prop :=
  ∀ (w : CmdWord) (s : State),
    w = cmdWord (w.extractLsb' 24 8) (w.extractLsb' 8 16) (w.extractLsb' 0 8) ∧
    if w.extractLsb' 24 8 ∈ [0x01#8, 0x02#8, 0x03#8, 0x04#8, 0x05#8, 0x06#8, 0x10#8, 0x11#8, 0x12#8, 0x13#8,
        0x14#8, 0x20#8, 0x21#8, 0x22#8, 0x23#8, 0x24#8, 0x25#8, 0x30#8, 0x31#8] then
      ∃ i, decode (.host w) = .ok i ∧ isCommand i = true ∧ i.wf = true ∧ runInput (.host w) s = exec i s
    else
      runInput (.host w) s = .next { s with cmdErr := true, resp := some 0x88000000#32 }

/-- R102, R104: an event word is decoded from its kind alone, `RX_BYTE` takes the data byte, and every other kind is
refused. -/
def Obligations.EventDispatch : Prop :=
  (∀ d : Byte,
    decode (.event (evWord 0x01#8 d)) = .ok .txReady ∧ decode (.event (evWord 0x02#8 d)) = .ok .txDone ∧
    decode (.event (evWord 0x03#8 d)) = .ok (.rxByte d) ∧ decode (.event (evWord 0x04#8 d)) = .ok .rxBreak ∧
    decode (.event (evWord 0x05#8 d)) = .ok .tick ∧ decode (.event (evWord 0x06#8 d)) = .ok .shiftout) ∧
  ∀ (w : EvWord) (s : State), w = evWord (w.extractLsb' 8 8) (w.extractLsb' 0 8) ∧
    (w.extractLsb' 8 8 ∉ [0x01#8, 0x02#8, 0x03#8, 0x04#8, 0x05#8, 0x06#8] →
      runInput (.event w) s = .refused (.unlistedEventKind (w.extractLsb' 8 8)))

/-- Words written out from the spec's examples (R111, R140, R163, R166, R102) decode to what they stand for. -/
def Obligations.SampleWords : Prop :=
  decode (.host 0x01000222#32) = .ok (.setslot 2#16 0x22#8) ∧
  decode (.host 0x13000500#32) = .ok (.setdirpin 5#16) ∧
  decode (.host 0x14000101#32) = .ok (.sethook 1#16 0x01#8) ∧
  decode (.host 0x20000218#32) = .ok (.pktwr 2#16 0x18#8) ∧
  decode (.host 0x23000001#32) = .ok (.sendtxn 0x01#8) ∧
  decode (.event 0x033D#16) = .ok (.rxByte 0x3D#8) ∧
  decode (.event 0x0600#16) = .ok .shiftout

/-- A step runs the decoded instruction: the next input of the schedule is taken off it, decoded, and its meaning is
the step (R7, R171, R183); a table word placed for the fetch is what the next step runs. The schedule is the model's
own field (log 1). -/
def Obligations.StepRunsDecodedInstruction : Prop :=
  (∀ (s : State) (x : Input) (rest : List Input) (i : Instr),
    s.schedule = x :: rest → decode x = .ok i → step s = exec i { s with schedule := rest }) ∧
  ∀ (s : State) (nbits w : Nat) (i : Instr),
    decodeTableWord nbits w = some i → step (s.withFetchWord nbits w) = exec i s

/-! ## Reset and invariants -/

/-- R49, R300, R301: what reset leaves. -/
def Obligations.ResetValues : Prop :=
  let r := State.reset
  (r.taskMode = .contSend ∧ r.run = false ∧ r.txState = .txIdle ∧ r.rxState = .rxIdle ∧ r.slotCount = 512#10 ∧
    r.dir = false ∧ r.dirPin = 0xFFFF#16 ∧ r.baudSel = .data ∧ r.ieTxRdy = false ∧ r.ieTxDone = false ∧
    r.ieRx = false ∧ r.hookFrameEn = false ∧ r.hookTxnEn = false ∧ r.respKind = .addressed) ∧
  (r.txIdx = 0#10 ∧ r.rxIdx = 0#10 ∧ r.rxLen = 0#10 ∧ r.txPktLen = 0#9 ∧ r.rxPktLen = 0#9 ∧ r.toCnt = 0#16 ∧
    r.tn = 0#8 ∧ r.discUid = 0#48) ∧
  (r.frameSent = false ∧ r.frameRcvd = false ∧ r.txnRcvd = false ∧ r.cmdErr = false ∧ r.rxAny = false ∧
    r.result = .none ∧ r.malfCause = .none) ∧
  (∀ (b : Buf) (i : Nat), r.byteAt b i = 0x00#8) ∧ r.txq = [] ∧ r.txc = false ∧ r.trace = [] ∧
  r.status = 0#27

/-- The invariant holds after reset (R51). -/
def Obligations.ResetMeetsInvariant : Prop := Inv State.reset

/-- Every step keeps the invariant: I1 to I8 of R51, the register ranges, the buffers' canonical form. -/
def Obligations.StepKeepsInvariant : Prop :=
  ∀ s t : State, Inv s → step s = .next t → Inv t

/-- R277, R288, R51 I9: no command and no arm faults; every instruction completes, in every state of the invariant. -/
def Obligations.EveryInstructionCompletes : Prop :=
  ∀ (i : Instr) (s : State), Inv s → ∃ t, exec i s = .next t

/-- A step never faults, and stops only at an event word of a kind that R102 does not list (R104, R287; the order of
inputs is the model's schedule, log 1, and so is the step with no input, log 2). -/
def Obligations.StepStopsOnlyAtUnlistedKind : Prop :=
  ∀ s : State, Inv s →
    (∃ t, step s = .next t) ∨
    ∃ (w : EvWord) (rest : List Input), s.schedule = .event w :: rest ∧
      (w.extractLsb' 8 8 = 0#8 ∨ 6 < (w.extractLsb' 8 8).toNat) ∧
      step s = .refused (.unlistedEventKind (w.extractLsb' 8 8))

/-- R51 I5: `BAUDSEL` changes only in a step that begins with `TXQ` empty. -/
def Obligations.BaudChangesOnlyWhenQueueEmpty : Prop :=
  ∀ (i : Instr) (s t : State), Inv s → exec i s = .next t → t.baudSel ≠ s.baudSel → s.txq = []

/-- R50: the three predicates. -/
def Obligations.NamedPredicates : Prop :=
  ∀ s : State,
    (s.txnActive = true ↔ s.taskMode = .sendTxn ∨ s.taskMode = .sendTxnResume) ∧
    (s.quiescent = true ↔
      s.txState = .txIdle ∧ s.ieTxRdy = false ∧ s.ieTxDone = false ∧ s.ieRx = false) ∧
    (s.startable = true ↔ ¬s.txnActive = true ∧ (s.run = false ∨ s.quiescent = true) ∧ s.txq = [])

/-! ## Rejects, responses, buffers -/

/-- R101, R170: every command answers with a response word; an accepted one has `CAUSE = 0`; a rejected one carries a
cause code of R271 with `DATA = 0`, and nothing but `CMD_ERR` changed. An event leaves the last response word as it
was (R102; the word is the model's field, log 4). -/
def Obligations.ResponseWords : Prop :=
  ∀ (i : Instr) (s t : State), exec i s = .next t →
    if isCommand i then
      ∃ w, t.resp = some w ∧ (w.getLsbD 31 = false → w.extractLsb' 27 4 = 0#4) ∧
        (w.getLsbD 31 = true →
          t = { s with cmdErr := true, resp := some w } ∧
            ∃ code : Nat, 1 ≤ code ∧ code ≤ 8 ∧ w = 1#32 <<< 31 ||| BitVec.ofNat 32 code <<< 27)
    else t.resp = s.resp

/-- R39: `CMD_ERR` is set by every rejected command and by nothing else, cleared only by `CLRFLAG` with bit 2 of its
mask, and read in `STATUS[14]`. -/
def Obligations.CmdErrIsSticky : Prop :=
  ∀ (i : Instr) (s t : State), exec i s = .next t →
    (isCommand i = true → t.accepted = false → t.cmdErr = true) ∧
    (s.cmdErr = false → t.cmdErr = true → isCommand i = true ∧ t.accepted = false) ∧
    (s.cmdErr = true → t.cmdErr = false → ∃ mask : Byte, i = .clrflag mask ∧ mask.getLsbD 2 = true) ∧
    t.status.getLsbD 14 = t.cmdErr

/-- R71, R150 d: the frame of every instruction over the four buffers. `SETSLOT` stores at most to its slot, `PKTWR`
at most to its offset, `RX_BYTE` at most to the byte its dispatch names, everything else nowhere; `TXFRAME[0]` is
written by nobody; no command changes `RXFRAME` or `RXPKT`, no arm `TXFRAME` or `TXPKT`. -/
def Obligations.StoresOnlyAtTarget : Prop :=
  ∀ (i : Instr) (s t : State), exec i s = .next t →
    (∀ (b : Buf) (k : Nat), storeTarget i s ≠ some (b, k) → t.byteAt b k = s.byteAt b k) ∧
    t.byteAt .txFrame 0 = s.byteAt .txFrame 0 ∧
    (isCommand i = true → ∀ k, t.byteAt .rxFrame k = s.byteAt .rxFrame k ∧ t.byteAt .rxPkt k = s.byteAt .rxPkt k) ∧
    (isCommand i = false → ∀ k, t.byteAt .txFrame k = s.byteAt .txFrame k ∧ t.byteAt .txPkt k = s.byteAt .txPkt k)

/-- R150 a: a slot value written is read back by every later `GETSLOT`, whatever events and commands come between,
unless a `SETSLOT` to that slot or a `SETCOUNT` below it is among them. -/
def Obligations.SlotRoundTrip : Prop :=
  ∀ (slot : Half) (x : Byte) (s t u : State) (inputs : List Input), Inv s →
    exec (.setslot slot x) s = .next t → t.accepted = true → runInputs inputs t = .next u →
    (∀ y ∈ inputs, ∀ z : Byte, decode y ≠ .ok (.setslot slot z)) →
    (∀ y ∈ inputs, ∀ n : Half, decode y = .ok (.setcount n) → slot.toNat ≤ n.toNat) →
    exec (.getslot slot) u = .next { u with resp := some (x.setWidth 32) }

/-! ## Buffer access commands -/

/-- R140. -/
def Obligations.SetslotRule : Prop :=
  ∀ (a : Half) (v : Byte), decode (.host (cmdWord 0x01#8 a v)) = .ok (.setslot a v) ∧
    ∀ s : State, s.txFrame.wf = true → s.slotCount.toNat ≤ 512 →
      if 1 ≤ a.toNat ∧ a.toNat ≤ s.slotCount.toNat then
        ∃ t, exec (.setslot a v) s = .next t ∧ t = { s with txFrame := t.txFrame, resp := some 0#32 } ∧
          t.byteAt .txFrame a.toNat = v ∧ ∀ k, k ≠ a.toNat → t.byteAt .txFrame k = s.byteAt .txFrame k
      else exec (.setslot a v) s = .next { s with cmdErr := true, resp := some 0x90000000#32 }

/-- R141, R142, R147: the three byte reads return the byte their operand names and change nothing else. -/
def Obligations.ByteReads : Prop :=
  ∀ (a : Half) (v : Byte) (s : State),
    (decode (.host (cmdWord 0x02#8 a v)) = .ok (.getslot a) ∧ (s.slotCount.toNat ≤ 512 →
      exec (.getslot a) s =
        if 1 ≤ a.toNat ∧ a.toNat ≤ s.slotCount.toNat then
          .next { s with resp := some ((s.byteAt .txFrame a.toNat).setWidth 32) }
        else .next { s with cmdErr := true, resp := some 0x90000000#32 })) ∧
    (decode (.host (cmdWord 0x03#8 a v)) = .ok (.rxslot a) ∧
      exec (.rxslot a) s =
        if a.toNat ≤ 512 then .next { s with resp := some ((s.byteAt .rxFrame a.toNat).setWidth 32) }
        else .next { s with cmdErr := true, resp := some 0x90000000#32 }) ∧
    (decode (.host (cmdWord 0x21#8 a v)) = .ok (.pktrd a) ∧
      exec (.pktrd a) s =
        if 256 ≤ a.toNat then .next { s with cmdErr := true, resp := some 0x90000000#32 }
        else .next { s with resp := some ((s.byteAt .rxPkt a.toNat).setWidth 32) })

/-- R143, R12 g: the count taken is `max(SLOTS_MIN, min(512, a))`, and is returned. -/
def Obligations.SetcountRule : Prop :=
  ∀ (a : Half) (v : Byte), decode (.host (cmdWord 0x04#8 a v)) = .ok (.setcount a) ∧
    ∀ s : State, ∃ n : Nat, n = max Config.slotsMin (min 512 a.toNat) ∧
      exec (.setcount a) s =
        .next { s with slotCount := BitVec.ofNat 10 n, resp := some (BitVec.ofNat 32 n) }

/-- R144, R145, R148: the three counts are returned and nothing else changes. -/
def Obligations.CountReads : Prop :=
  ∀ (a : Half) (v : Byte) (s : State),
    (decode (.host (cmdWord 0x05#8 a v)) = .ok .getcount ∧
      exec .getcount s = .next { s with resp := some (s.slotCount.setWidth 32) }) ∧
    (decode (.host (cmdWord 0x06#8 a v)) = .ok .rdrxlen ∧
      exec .rdrxlen s = .next { s with resp := some (s.rxLen.setWidth 32) }) ∧
    (decode (.host (cmdWord 0x24#8 a v)) = .ok .rdpktlen ∧
      exec .rdpktlen s = .next { s with resp := some (s.rxPktLen.setWidth 32) })

/-- R146: `BUSY` is tested before `RANGE`. -/
def Obligations.PktwrRule : Prop :=
  ∀ (a : Half) (v : Byte), decode (.host (cmdWord 0x20#8 a v)) = .ok (.pktwr a v) ∧
    ∀ s : State, s.txPkt.wf = true →
      if s.txnActive = true then
        exec (.pktwr a v) s = .next { s with cmdErr := true, resp := some 0x98000000#32 }
      else if 256 ≤ a.toNat then
        exec (.pktwr a v) s = .next { s with cmdErr := true, resp := some 0x90000000#32 }
      else
        ∃ t, exec (.pktwr a v) s = .next t ∧ t = { s with txPkt := t.txPkt, resp := some 0#32 } ∧
          t.byteAt .txPkt a.toNat = v ∧ ∀ k, k ≠ a.toNat → t.byteAt .txPkt k = s.byteAt .txPkt k

/-- R149, R109: byte `k` is `DISCUID[47 - 8k : 40 - 8k]`, so the six bytes put together are the address. -/
def Obligations.RddiscRule : Prop :=
  ∀ (a : Half) (v : Byte), decode (.host (cmdWord 0x25#8 a v)) = .ok (.rddisc a) ∧
    ∀ s : State,
      exec (.rddisc a) s =
        if 5 < a.toNat then .next { s with cmdErr := true, resp := some 0x90000000#32 }
        else .next { s with
          resp := some (BitVec.ofNat 32 (s.discUid.toNat / 2 ^ (40 - 8 * a.toNat) % 256)) }

/-! ## Control commands -/

/-- R160, R180, R169: `STARTOUT`; the first break is handed over in the same step. -/
def Obligations.StartoutRule : Prop :=
  ∀ (a : Half) (v : Byte), decode (.host (cmdWord 0x10#8 a v)) = .ok .startout ∧
    ∀ s : State,
      exec .startout s =
        if s.txnActive = true ∨ ¬(s.run = false ∨ s.quiescent = true) then
          .next { s with cmdErr := true, resp := some 0x98000000#32 }
        else if s.txq ≠ [] then .next { s with cmdErr := true, resp := some 0xB8000000#32 }
        else .next { s with
          taskMode := .contSend, run := true, ieRx := false, rxState := .rxIdle, ieTxRdy := false, dir := true,
          trace := s.trace ++ dirSyms true s, baudSel := .brk, txq := [⟨0x00#8, .brk⟩], txc := false,
          txState := .txBreak, ieTxDone := true, resp := some 0#32 }

/-- R161, R169: `STARTIN`. -/
def Obligations.StartinRule : Prop :=
  ∀ (a : Half) (v : Byte), decode (.host (cmdWord 0x11#8 a v)) = .ok .startin ∧
    ∀ s : State,
      exec .startin s =
        if s.txnActive = true ∨ ¬(s.run = false ∨ s.quiescent = true) then
          .next { s with cmdErr := true, resp := some 0x98000000#32 }
        else if s.txq ≠ [] then .next { s with cmdErr := true, resp := some 0xB8000000#32 }
        else .next { s with
          taskMode := .contRecv, run := true, dir := false, trace := s.trace ++ dirSyms false s,
          ieTxRdy := false, ieTxDone := false, txState := .txIdle, rxState := .rxIdle, rxIdx := 0#10,
          ieRx := true, resp := some 0#32 }

/-- R162: `STOP`. -/
def Obligations.StopRule : Prop :=
  ∀ (a : Half) (v : Byte), decode (.host (cmdWord 0x12#8 a v)) = .ok .stop ∧
    ∀ s : State,
      exec .stop s =
        if s.txnActive = true then .next { s with cmdErr := true, resp := some 0x98000000#32 }
        else .next { s with
          run := false, ieTxRdy := false, ieTxDone := false, ieRx := false, txState := .txIdle,
          rxState := .rxIdle, resp := some 0#32 }

/-- R163: `SETDIRPIN`; a pin takes the current level. -/
def Obligations.SetdirpinRule : Prop :=
  ∀ (a : Half) (v : Byte), decode (.host (cmdWord 0x13#8 a v)) = .ok (.setdirpin a) ∧
    ∀ s : State,
      exec (.setdirpin a) s = .next { s with
        dirPin := a, trace := s.trace ++ (if a = 0xFFFF#16 then [] else [.dir s.dir]), resp := some 0#32 }

/-- R164: `SETHOOK`; only `v[0]` is read. -/
def Obligations.SethookRule : Prop :=
  ∀ (a : Half) (v : Byte) (s : State),
    ∃ f : Byte, decode (.host (cmdWord 0x14#8 a v)) = .ok (.sethook a f) ∧ f.getLsbD 0 = v.getLsbD 0 ∧
      exec (.sethook a f) s =
        if a = 0#16 then .next { s with hookFrameEn := v.getLsbD 0, resp := some 0#32 }
        else if a = 1#16 then .next { s with hookTxnEn := v.getLsbD 0, resp := some 0#32 }
        else .next { s with cmdErr := true, resp := some 0xC0000000#32 }

/-- R165: `NEXTTN` returns the counter and increments it mod 256. -/
def Obligations.NexttnRule : Prop :=
  ∀ (a : Half) (v : Byte), decode (.host (cmdWord 0x22#8 a v)) = .ok .nexttn ∧
    ∀ s : State,
      exec .nexttn s = .next { s with
        tn := BitVec.ofNat 8 ((s.tn.toNat + 1) % 256), resp := some (s.tn.setWidth 32) }

/-- R166, R180: `SENDTXN`; the tests in their order; from quiescence the packet's break is handed over in the same
step, where `TXQ` is empty (the premise, R180; kept by the invariant). Bits `v[7:2]` are ignored. -/
def Obligations.SendtxnRule : Prop :=
  ∀ (a : Half) (v : Byte) (s : State), (s.run = true → s.quiescent = true → s.txq = []) →
    ∃ f : Byte, decode (.host (cmdWord 0x23#8 a v)) = .ok (.sendtxn f) ∧
      f.getLsbD 0 = v.getLsbD 0 ∧ f.getLsbD 1 = v.getLsbD 1 ∧
      exec (.sendtxn f) s =
        if s.run = false then .next { s with cmdErr := true, resp := some 0xA0000000#32 }
        else if s.txnActive = true then .next { s with cmdErr := true, resp := some 0x98000000#32 }
        else if s.taskMode ≠ .contSend then .next { s with cmdErr := true, resp := some 0xA8000000#32 }
        else if (s.byteAt .txPkt 2).toNat < 24 then
          .next { s with cmdErr := true, resp := some 0xB0000000#32 }
        else if s.quiescent = true then .next { s with
          respKind := if v.getLsbD 1 then .discovery else .addressed
          taskMode := if v.getLsbD 0 then .sendTxnResume else .sendTxn
          result := .pending, malfCause := .none, ieTxRdy := false, frameSent := false, dir := true,
          trace := s.trace ++ dirSyms true s, baudSel := .brk, txq := [⟨0x00#8, .brk⟩], txc := false,
          txState := .txPktBreak, ieTxDone := true, resp := some 0#32 }
        else .next { s with
          respKind := if v.getLsbD 1 then .discovery else .addressed
          taskMode := if v.getLsbD 0 then .sendTxnResume else .sendTxn
          result := .pending, malfCause := .none, resp := some 0#32 }

/-- R167, R47, and the codes of R20, R22, R23, R32, R35, R41: `RDSTATUS` returns the word with every field in its place
and changes nothing. -/
def Obligations.RdstatusRule : Prop :=
  ∀ (a : Half) (v : Byte), decode (.host (cmdWord 0x30#8 a v)) = .ok .rdstatus ∧
    ∀ s : State, ∃ d : Data, exec .rdstatus s = .next { s with resp := some (d.setWidth 32) } ∧
      d.extractLsb' 0 2 = (match s.taskMode with
        | .contSend => 0#2 | .contRecv => 1#2 | .sendTxn => 2#2 | .sendTxnResume => 3#2) ∧
      d.getLsbD 2 = s.run ∧
      d.extractLsb' 3 3 = (match s.txState with
        | .txIdle => 0#3 | .txBreak => 1#3 | .txStart => 2#3 | .txData => 3#3 | .txPktBreak => 4#3
        | .txPktData => 5#3 | .txPktLast => 6#3 | .txWaitResp => 7#3) ∧
      d.extractLsb' 6 2 = (match s.rxState with | .rxIdle => 0#2 | .rxStart => 1#2 | .rxReceiving => 2#2) ∧
      d.getLsbD 8 = s.dir ∧ d.getLsbD 9 = decide (s.baudSel = .brk) ∧ d.getLsbD 10 = decide (s.txq ≠ []) ∧
      d.getLsbD 11 = s.frameSent ∧ d.getLsbD 12 = s.frameRcvd ∧ d.getLsbD 13 = s.txnRcvd ∧
      d.getLsbD 14 = s.cmdErr ∧ d.getLsbD 15 = s.hookFrameEn ∧ d.getLsbD 16 = s.hookTxnEn ∧
      d.extractLsb' 17 3 = (match s.result with
        | .none => 0#3 | .pending => 1#3 | .valid => 2#3 | .noReply => 3#3 | .malformed => 4#3) ∧
      d.extractLsb' 20 3 = (match s.malfCause with
        | .none => 0#3 | .length => 1#3 | .checksum => 2#3 | .tn => 3#3 | .dest => 4#3
        | .incomplete => 5#3 | .discDecode => 6#3) ∧
      d.getLsbD 23 = s.rxAny ∧ d.getLsbD 24 = decide (s.respKind = .discovery) ∧
      d.extractLsb' 25 2 = 0#2

/-- R168: `CLRFLAG` clears the flags its mask names; bits `v[7:3]` are ignored. -/
def Obligations.ClrflagRule : Prop :=
  ∀ (a : Half) (v : Byte) (s : State),
    ∃ m : Byte, decode (.host (cmdWord 0x31#8 a v)) = .ok (.clrflag m) ∧
      exec (.clrflag m) s = .next { s with
        frameRcvd := if v.getLsbD 0 then false else s.frameRcvd
        txnRcvd := if v.getLsbD 1 then false else s.txnRcvd
        cmdErr := if v.getLsbD 2 then false else s.cmdErr
        resp := some 0#32 }

/-! ## The frame boundary, the serial peripheral, delivery -/

/-- R180: `FrameBoundary`, its three arms; `TXQ` is empty in every call. -/
def Obligations.FrameBoundaryRule : Prop :=
  ∀ s : State, s.txq = [] →
    frameBoundary s = .next
      (if s.taskMode = .contSend then { s with
          ieTxRdy := false, dir := true, trace := s.trace ++ dirSyms true s, baudSel := .brk,
          txq := [⟨0x00#8, .brk⟩], txc := false, txState := .txBreak, ieTxDone := true }
        else if s.txnActive = true then { s with
          ieTxRdy := false, frameSent := false, dir := true, trace := s.trace ++ dirSyms true s,
          baudSel := .brk, txq := [⟨0x00#8, .brk⟩], txc := false, txState := .txPktBreak, ieTxDone := true }
        else { s with ieTxRdy := false, txState := .txIdle, ieTxDone := false })

/-- R182: `SHIFTOUT`, whatever `RUN` and the enables are; event kind 0x06. -/
def Obligations.ShiftoutRule : Prop :=
  (∀ d : Byte, decode (.event (evWord 0x06#8 d)) = .ok .shiftout) ∧
  ∀ (s : State) (b : Byte) (baud : Baud) (rest : List TxPair), s.txq = ⟨b, baud⟩ :: rest →
    exec .shiftout s = .next { s with
      txq := rest, trace := s.trace ++ [if baud = .brk then .brk else .tx b],
      txc := if rest = [] then true else s.txc }

/-- R183 in the model: an event that is not enabled changes nothing. For `RX_BYTE`, `RX_BREAK` and `TICK` the spec
says they are lost; for `TX_READY`, `TX_DONE` and `SHIFTOUT`, which the spec says cannot be taken, this is the model's
choice (log 3). -/
def Obligations.DisabledEventsChangeNothing : Prop :=
  ∀ s : State,
    (¬(s.run = true ∧ s.ieTxRdy = true ∧ s.txq.length < 2) → exec .txReady s = .next s) ∧
    (¬(s.run = true ∧ s.ieTxDone = true ∧ s.txc = true) → exec .txDone s = .next s) ∧
    (¬(s.run = true ∧ s.ieRx = true) → exec .rxBreak s = .next s ∧ ∀ b, exec (.rxByte b) s = .next s) ∧
    (s.run = false → exec .tick s = .next s) ∧
    (s.txq = [] → exec .shiftout s = .next s)

/-! ## Handler arms of continuous send -/

/-- R184, R180: `TX_DONE` in `TX_IDLE`, for each `TASKMODE`. -/
def Obligations.TxDoneAtFrameEnd : Prop :=
  ∀ s : State, s.run = true → s.ieTxDone = true → s.txc = true → s.txState = .txIdle → s.txq = [] →
    exec .txDone s = .next
      (if s.taskMode = .contSend then { s with
          frameSent := true, ieTxRdy := false, dir := true, trace := s.trace ++ dirSyms true s,
          baudSel := .brk, txq := [⟨0x00#8, .brk⟩], txc := false, txState := .txBreak }
        else if s.txnActive = true then { s with
          frameSent := false, ieTxRdy := false, dir := true, trace := s.trace ++ dirSyms true s,
          baudSel := .brk, txq := [⟨0x00#8, .brk⟩], txc := false, txState := .txPktBreak }
        else { s with frameSent := true, ieTxRdy := false, ieTxDone := false, txc := false })

/-- R185, R217: `TX_DONE` in `TX_BREAK` and in `TX_PKT_BREAK`: the start code, or the packet's first byte, is handed over
at data baud; `TXPKTLEN` is read off the packet then. -/
def Obligations.TxDoneAfterBreak : Prop :=
  ∀ s : State, s.run = true → s.ieTxDone = true → s.txc = true → s.txq = [] →
    (s.txState = .txBreak →
      exec .txDone s = .next { s with
        baudSel := .data, txq := [⟨s.byteAt .txFrame 0, .data⟩], txc := false, txIdx := 1#10,
        txState := .txStart, ieTxDone := false, ieTxRdy := true }) ∧
    (s.txState = .txPktBreak →
      exec .txDone s = .next { s with
        baudSel := .data, txPktLen := BitVec.ofNat 9 ((s.byteAt .txPkt 2).toNat + 1),
        txq := [⟨s.byteAt .txPkt 0, .data⟩], txc := false, txIdx := 1#10, txState := .txPktData,
        ieTxDone := false, ieTxRdy := true })

/-- R186, R187, R190: `TX_READY` in `TX_START` and `TX_DATA`: a slot is handed over if one is left, with `SLOTCOUNT`
and the slot read in this step; then the frame ends if the count is reached. -/
def Obligations.TxReadySendsSlot : Prop :=
  ∀ s : State, s.run = true → s.ieTxRdy = true → s.txq.length < 2 →
    (s.txState = .txStart ∨ s.txState = .txData) → s.slotCount.toNat ≤ 512 →
    exec .txReady s = .next
      (if s.txIdx.toNat < s.slotCount.toNat then { s with
          txq := s.txq ++ [⟨s.byteAt .txFrame s.txIdx.toNat, s.baudSel⟩], txc := false,
          txIdx := s.txIdx + 1#10, txState := .txData }
        else if s.txIdx.toNat = s.slotCount.toNat then { s with
          txq := s.txq ++ [⟨s.byteAt .txFrame s.txIdx.toNat, s.baudSel⟩], txc := false,
          txIdx := s.txIdx + 1#10, txState := .txIdle, ieTxRdy := false, ieTxDone := true }
        else { s with txState := .txIdle, ieTxRdy := false, ieTxDone := true })

/-- R188: the arms that do nothing, in any state. -/
def Obligations.ArmsThatDoNothing : Prop :=
  ∀ s : State,
    (s.run = true → s.ieTxRdy = true → s.txq.length < 2 →
      s.txState ≠ .txStart → s.txState ≠ .txData → s.txState ≠ .txPktData → exec .txReady s = .next s) ∧
    (s.run = true → s.ieTxDone = true → s.txc = true →
      s.txState ≠ .txIdle → s.txState ≠ .txBreak → s.txState ≠ .txPktBreak → s.txState ≠ .txPktLast →
      exec .txDone s = .next { s with txc := false })

/-! ## Handler arms of continuous receive -/

/-- R200 to R203: `RX_BREAK` outside `TX_WAIT_RESP`. In continuous receive a break that ends a frame reports it, and
the arms need `RXIDX >= 1` there (R203); in any other mode only the `TRACE` grows. -/
def Obligations.RxBreakDelimitsFrames : Prop :=
  ∀ s : State, s.run = true → s.ieRx = true → s.txState ≠ .txWaitResp →
    (s.rxState = .rxReceiving → s.rxIdx ≠ 0#10) →
    exec .rxBreak s = .next
      (if s.taskMode = .contRecv then
        if s.rxState = .rxReceiving then { s with
          trace := s.trace ++ .rxBrk ::
            (if s.hookFrameEn then [.notify .frame (s.rxIdx.toNat - 1)] else []),
          rxLen := BitVec.ofNat 10 (s.rxIdx.toNat - 1), frameRcvd := true, rxState := .rxStart,
          rxIdx := 0#10 }
        else { s with trace := s.trace ++ [.rxBrk], rxState := .rxStart, rxIdx := 0#10 }
      else { s with trace := s.trace ++ [.rxBrk] })

/-- R200, R204 to R206: `RX_BYTE` outside `TX_WAIT_RESP`. -/
def Obligations.RxByteStoresSlots : Prop :=
  ∀ (b : Byte) (s : State), s.run = true → s.ieRx = true → s.txState ≠ .txWaitResp → s.rxFrame.wf = true →
    if s.taskMode = .contRecv ∧ s.rxState = .rxStart then
      ∃ t, exec (.rxByte b) s = .next t ∧
        t = { s with
          trace := s.trace ++ [.rx b], rxFrame := t.rxFrame, rxIdx := 1#10, rxState := .rxReceiving } ∧
        t.byteAt .rxFrame 0 = b ∧ ∀ k, k ≠ 0 → t.byteAt .rxFrame k = s.byteAt .rxFrame k
    else if s.taskMode = .contRecv ∧ s.rxState = .rxReceiving ∧ s.rxIdx.toNat ≤ 512 then
      ∃ t, exec (.rxByte b) s = .next t ∧
        t = { s with trace := s.trace ++ [.rx b], rxFrame := t.rxFrame, rxIdx := s.rxIdx + 1#10 } ∧
        t.byteAt .rxFrame s.rxIdx.toNat = b ∧
        ∀ k, k ≠ s.rxIdx.toNat → t.byteAt .rxFrame k = s.byteAt .rxFrame k
    else exec (.rxByte b) s = .next { s with trace := s.trace ++ [.rx b] }

/-- R207, R203, R206: a frame of `1 + n` bytes between two breaks is stored from index 0 and reported once, at the
break that ends it, with `min(n + 1, 513) - 1` slots; the bytes above keep what they held. -/
def Obligations.ReceivedFrame : Prop :=
  ∀ (l : List Byte) (s : State), Inv s → s.run = true → s.ieRx = true → s.taskMode = .contRecv →
    s.rxState = .rxStart → l ≠ [] →
    ∃ t, runInputs (rxBytes l ++ [encode .rxBreak]) s = .next t ∧
      t = { s with
        rxFrame := t.rxFrame, rxLen := BitVec.ofNat 10 (min l.length 513 - 1), frameRcvd := true,
        rxIdx := 0#10,
        trace := s.trace ++ l.map .rx ++ .rxBrk ::
          (if s.hookFrameEn then [.notify .frame (min l.length 513 - 1)] else []) } ∧
      t.bytesAt .rxFrame 0 (min l.length 513) = l.take 513 ∧
      ∀ k, min l.length 513 ≤ k → t.byteAt .rxFrame k = s.byteAt .rxFrame k

/-! ## Handler arms of a transaction -/

/-- R218: `TX_READY` in `TX_PKT_DATA`. -/
def Obligations.TxReadySendsPacketByte : Prop :=
  ∀ s : State, s.run = true → s.ieTxRdy = true → s.txq.length < 2 → s.txState = .txPktData →
    s.txIdx.toNat < s.txPktLen.toNat → s.txPktLen.toNat ≤ 256 →
    exec .txReady s = .next
      (if s.txPktLen.toNat ≤ s.txIdx.toNat + 1 then { s with
          txq := s.txq ++ [⟨s.byteAt .txPkt s.txIdx.toNat, s.baudSel⟩], txc := false,
          txIdx := s.txIdx + 1#10, txState := .txPktLast, ieTxRdy := false, ieTxDone := true }
        else { s with
          txq := s.txq ++ [⟨s.byteAt .txPkt s.txIdx.toNat, s.baudSel⟩], txc := false,
          txIdx := s.txIdx + 1#10 })

/-- R219: `TX_DONE` in `TX_PKT_LAST`, the turnaround. -/
def Obligations.Turnaround : Prop :=
  ∀ s : State, s.run = true → s.ieTxDone = true → s.txc = true → s.txState = .txPktLast →
    exec .txDone s = .next { s with
      txc := false, dir := false, trace := s.trace ++ dirSyms false s, ieTxDone := false, rxIdx := 0#10,
      rxAny := false, rxState := .rxIdle,
      toCnt := BitVec.ofNat 16
        (if s.respKind = .discovery then Config.discTimeout else Config.txnTimeout),
      ieRx := true, txState := .txWaitResp }

/-- R220: `RX_BYTE` in `TX_WAIT_RESP`: the byte is stored, giving the state `u`, and the response is judged in `u` when
it is complete; `RXIDX` is at most 256 (R25). -/
def Obligations.RxByteOfResponse : Prop :=
  ∀ (b : Byte) (s : State), s.run = true → s.ieRx = true → s.txState = .txWaitResp → s.rxPkt.wf = true →
    ∃ u : State,
      u = { s with
        trace := s.trace ++ [.rx b], rxAny := true, rxState := .rxReceiving, rxPkt := u.rxPkt,
        rxIdx := if s.rxIdx.toNat < 256 then s.rxIdx + 1#10 else s.rxIdx } ∧
      (s.rxIdx.toNat < 256 → u.byteAt .rxPkt s.rxIdx.toNat = b) ∧
      (∀ k, ¬(k = s.rxIdx.toNat ∧ k < 256) → u.byteAt .rxPkt k = s.byteAt .rxPkt k) ∧
      exec (.rxByte b) s =
        if s.respKind = .addressed then
          if 2 < u.rxIdx.toNat ∧ (u.byteAt .rxPkt 2).toNat + 1 ≤ u.rxIdx.toNat then resolve (validate u) u
          else .next u
        else if Config.discRespMax ≤ u.rxIdx.toNat then resolveDiscovery u
        else .next u

/-- R221: `RX_BREAK` in `TX_WAIT_RESP`. -/
def Obligations.RxBreakOfResponse : Prop :=
  ∀ s : State, s.run = true → s.ieRx = true → s.txState = .txWaitResp →
    exec .rxBreak s = .next
      (if s.respKind = .addressed then { s with
          trace := s.trace ++ [.rxBrk], rxAny := true, rxIdx := 0#10, rxState := .rxStart }
        else { s with trace := s.trace ++ [.rxBrk], rxAny := true })

/-- R222, R223: `TICK`. In `TX_WAIT_RESP` the count goes down (it is at least 1, R51 I4) and at 0 the transaction is
judged; in any other state nothing changes. -/
def Obligations.TickRule : Prop :=
  ∀ s : State, s.run = true →
    (s.txState ≠ .txWaitResp → exec .tick s = .next s) ∧
    (s.txState = .txWaitResp → 1 < s.toCnt.toNat →
      exec .tick s = .next { s with toCnt := BitVec.ofNat 16 (s.toCnt.toNat - 1) }) ∧
    (s.txState = .txWaitResp → s.toCnt.toNat = 1 → ∀ u : State, u = { s with toCnt := 0#16 } →
      exec .tick s =
        if s.rxAny = false then resolve ⟨.noReply, .none⟩ u
        else if s.respKind = .discovery then resolveDiscovery u
        else resolve ⟨.malformed, .incomplete⟩ u)

/-- R224, R107, R72: `Validate`, the four checks in their order; the checksum is the sum of the bytes before it mod 256,
the two addresses are compared byte by byte. -/
def Obligations.ValidateRule : Prop :=
  ∀ (s : State) (ml : Nat), ml = (s.byteAt .rxPkt 2).toNat →
    validate s =
      if ¬(24 ≤ ml ∧ s.rxIdx.toNat = ml + 1 ∧ (s.byteAt .rxPkt 23).toNat = ml - 24) then
        ⟨.malformed, .length⟩
      else if ((s.bytesAt .rxPkt 0 ml).map BitVec.toNat).sum % 256 ≠ (s.byteAt .rxPkt ml).toNat then
        ⟨.malformed, .checksum⟩
      else if s.byteAt .rxPkt 15 ≠ s.byteAt .txPkt 15 then ⟨.malformed, .tn⟩
      else if s.bytesAt .rxPkt 3 6 ≠ s.bytesAt .txPkt 9 6 then ⟨.malformed, .dest⟩
      else ⟨.valid, .none⟩

/-- R225: `Resolve`. Called in `TX_WAIT_RESP` only, where `TXQ` is empty and `RXIDX <= 256` (R51 I4, R25). -/
def Obligations.ResolveRule : Prop :=
  ∀ (res : TxnResult) (cause : MalfCause) (s : State), s.txq = [] → s.rxIdx.toNat ≤ 256 →
    ∃ u : State,
      u = { s with
        result := res, malfCause := cause, rxPktLen := BitVec.ofNat 9 s.rxIdx.toNat, ieRx := false,
        rxState := .rxIdle, txnRcvd := if res = .valid then true else s.txnRcvd, dir := true,
        trace := s.trace
          ++ (if res = .valid ∧ s.hookTxnEn = true then [.notify .txn s.rxIdx.toNat] else [])
          ++ dirSyms true s,
        taskMode := .contSend, ieTxRdy := false } ∧
      resolve ⟨res, cause⟩ s = .next
        (if s.taskMode = .sendTxnResume then { u with
            baudSel := .brk, txq := [⟨0x00#8, .brk⟩], txc := false, txState := .txBreak, ieTxDone := true }
          else { u with txState := .txIdle, ieTxDone := false })

/-- R226, R114: `DiscResult`, and `DiscDecode` of the empty list. -/
def Obligations.DiscResultRule : Prop :=
  Config.discDecode [] = none ∧
  ∀ s : State, s.rxIdx.toNat ≤ 256 →
    resolveDiscovery s =
      if s.rxAny = false then resolve ⟨.noReply, .none⟩ s
      else
        match Config.discDecode (s.bytesAt .rxPkt 0 s.rxIdx.toNat) with
        | some u => resolve ⟨.valid, .none⟩ { s with discUid := u }
        | none => resolve ⟨.malformed, .discDecode⟩ s

/-! ## The whole machine -/

/-- R189: every transition of `TXSTATE` is one of the table. -/
def Obligations.TxStateTransitions : Prop :=
  ∀ (i : Instr) (s t : State), Inv s → exec i s = .next t → t.txState = txTable i s t

/-- R81, R307: `TASKMODE` is written by the foreground only while no transaction is active, by the handler only while one
is, and then to `CONT_SEND`; `RESULT` becomes `PENDING` in the step that makes the transaction active and leaves it in
the step that ends it. -/
def Obligations.TaskModeHasOneWriter : Prop :=
  ∀ (i : Instr) (s t : State), Inv s → exec i s = .next t →
    (t.taskMode ≠ s.taskMode →
      (s.txnActive = false ∧ (i = .startout ∨ i = .startin ∨ ∃ f, i = .sendtxn f)) ∨
      (s.txnActive = true ∧ isCommand i = false ∧ t.taskMode = .contSend)) ∧
    (s.txnActive = false → (t.result = .pending ↔ t.txnActive = true)) ∧
    (s.txnActive = true → (t.result ≠ .pending ↔ t.txnActive = false))

/-- R228, R84: while a transaction is active the commands that could disturb it are rejected `BUSY`, and no step changes
a byte of `TXPKT`. -/
def Obligations.NoCancellation : Prop :=
  ∀ s : State, Inv s → s.txnActive = true →
    (∀ i : Instr,
      (i = .stop ∨ i = .startout ∨ i = .startin ∨ (∃ f, i = .sendtxn f) ∨ ∃ a v, i = .pktwr a v) →
      exec i s = .next { s with cmdErr := true, resp := some 0x98000000#32 }) ∧
    ∀ (i : Instr) (t : State), exec i s = .next t → ∀ k, t.byteAt .txPkt k = s.byteAt .txPkt k

/-- R181, R182, R191 d, R227: for every step of every agent, the symbols handed over since reset grow by exactly what
this step hands over, and `SHIFTOUT` only moves the oldest of them from `TXQ` to the `TRACE`: bytes leave in the order
they were handed over, none is lost, none is invented. -/
def Obligations.WireIsWhatWasHandedOver : Prop :=
  ∀ (i : Instr) (s t : State), Inv s → exec i s = .next t → t.wire = s.wire ++ handedOver i s t

/-- R105, R191 a: from the hand-over of a frame's break, the frame on the wire is the break, the start code and slots 1 to
`SLOTCOUNT`, for the schedule in which each byte leaves before the next is handed over. -/
def Obligations.FrameOnTheWire : Prop :=
  ∀ s : State, Inv s → s.run = true → s.txState = .txBreak → s.ieTxDone = true →
    s.txq = [⟨0x00#8, .brk⟩] →
    runInputs
        ([encode .shiftout, encode .txDone, encode .shiftout] ++ manyBytes s.slotCount.toNat) s =
      .next { s with
        trace := s.trace ++ frameSyms s s.slotCount.toNat, txState := .txIdle, txq := [], txc := true,
        baudSel := .data, txIdx := s.slotCount + 1#10, ieTxRdy := false, ieTxDone := true }

/-- R227 a b, R217 to R219, R108: from the hand-over of a packet's break, the packet on the wire is the break and
`TXPKT[0 .. ML + CKSUM_LEN - 1]`, and only then is the line released, for the schedule in which each byte leaves before the
next is handed over. -/
def Obligations.PacketOnTheWire : Prop :=
  ∀ s : State, Inv s → s.run = true → s.txState = .txPktBreak → s.ieTxDone = true →
    s.txq = [⟨0x00#8, .brk⟩] →
    ∃ t, runInputs
        ([encode .shiftout, encode .txDone, encode .shiftout] ++ manyBytes (s.byteAt .txPkt 2).toNat
          ++ [encode .txDone]) s = .next t ∧
      t.trace = s.trace ++ .brk :: packetSyms s ((s.byteAt .txPkt 2).toNat + 1) ++ dirSyms false s ∧
      t.txState = .txWaitResp ∧ t.dir = false ∧ t.ieRx = true ∧ t.result = .pending ∧
      ∀ b k, t.byteAt b k = s.byteAt b k

/-- R227 c, R208: while the line is released (continuous receive, or waiting for a response) no step puts a symbol on the
wire. -/
def Obligations.SilentWhileReleased : Prop :=
  ∀ (i : Instr) (s t : State), Inv s → (s.taskMode = .contRecv ∨ s.txState = .txWaitResp) →
    exec i s = .next t →
    ∃ l : List Sym, t.trace = s.trace ++ l ∧ ∀ y ∈ l, y.transmitted = false

/-- R228, R222: a transaction that waits for its response resolves within `TOCNT` ticks, whatever commands, received
bytes, breaks and other events come between. -/
def Obligations.TransactionResolvesWithinTimeout : Prop :=
  ∀ (is : List Instr) (s : State), Inv s → s.txState = .txWaitResp →
    s.toCnt.toNat ≤ is.count .tick →
    ∃ (n : Nat) (u : State), runInputs ((is.take n).map encode) s = .next u ∧
      u.txnActive = false ∧ u.taskMode = .contSend ∧ u.result ≠ .pending ∧ u.dir = true

/-- R78 c: once the outcome is shown, the response in `RXPKT`, `RXPKTLEN` and the outcome stay until the next
`SENDTXN`, whatever else happens. -/
def Obligations.ResponseIsFinal : Prop :=
  ∀ (is : List Instr) (s t : State), Inv s → s.txnActive = false →
    (∀ i ∈ is, ∀ f, i ≠ .sendtxn f) → runInputs (is.map encode) s = .next t →
    (∀ k, t.byteAt .rxPkt k = s.byteAt .rxPkt k) ∧ t.rxPktLen = s.rxPktLen ∧ t.result = s.result ∧
      t.malfCause = s.malfCause ∧ t.discUid = s.discUid

/-! ## Pseudo-operations -/

/-- R252, R106, R107, R109: `BUILDPKT` puts every field of the packet at its offset in `TXPKT` and the checksum after
them, returns the counter value and leaves the counter one further, whatever events come before each of its commands; when
no other step comes between, nothing else changes but the response word. Stated for the layout of R106, which is the
machine's, and for D10's alternative. A pseudo-operation is a host program in the model (log 8, 12). -/
def Obligations.BuildpktRule : Prop :=
  Config.layout = {
    sc := 0, subsc := 1, ml := 2, dest := 3, src := 9, tn := 15, port := 16, mc := 17, sub := 18, cc := 20,
    pid := 21, pdl := 23, pd := 24 } ∧
  ∀ (L : Config.Layout) (h : Config.Header) (dest : Uid) (cc : Byte) (pid : Half) (pd : List Byte) (s : State)
    (env : List (List Instr)),
    (L = Config.layout ∨ L = Config.Layout.alternative) → pd.length ≤ 231 → Inv s → s.txnActive = false →
    env.length = 26 + pd.length → (∀ l ∈ env, ∀ i ∈ l, isCommand i = false) →
    ∃ t, (buildpkt L h dest cc pid pd).play (env.map fun l => l.map encode) s = some (.done s.tn, t) ∧
      ((∀ l ∈ env, l = []) → t = { s with tn := s.tn + 1#8, txPkt := t.txPkt, resp := some 0#32 }) ∧
      t.tn = s.tn + 1#8 ∧
      t.byteAt .txPkt L.sc = h.scPkt ∧ t.byteAt .txPkt L.subsc = h.subscPkt ∧
      (t.byteAt .txPkt L.ml).toNat = 24 + pd.length ∧
      t.memRead .txPkt L.dest 6 = dest.toNat ∧ t.memRead .txPkt L.src 6 = h.controllerUid.toNat ∧
      t.byteAt .txPkt L.tn = s.tn ∧ t.byteAt .txPkt L.port = h.portId ∧ t.byteAt .txPkt L.mc = h.msgCount ∧
      t.memRead .txPkt L.sub 2 = h.subdev.toNat ∧ t.byteAt .txPkt L.cc = cc ∧
      t.memRead .txPkt L.pid 2 = pid.toNat ∧ (t.byteAt .txPkt L.pdl).toNat = pd.length ∧
      t.bytesAt .txPkt L.pd pd.length = pd ∧
      (t.byteAt .txPkt (24 + pd.length)).toNat =
        ((t.bytesAt .txPkt 0 (24 + pd.length)).map BitVec.toNat).sum % 256 ∧
      ∀ k, 25 + pd.length ≤ k → t.byteAt .txPkt k = s.byteAt .txPkt k

/-- R316, R228, R260 e, R253, R259: what fairness gives. In a run fair by F1 to F3 every active transaction resolves, and
while frames are sent and not stopped they keep ending. With F4, every pseudo-operation but `WAITFRAME` returns, for every
`HOST_SPIN_MAX`, finite or unbounded; an unbounded `SENDWAIT` never gives up; a `WAITFRAME` returns when its spin is
finite, and in its precondition returns true when it is unbounded. How an infinite run is formed is the model's (log 18). -/
def Obligations.FairRunsComplete : Prop :=
  (∀ (σ : Nat → State) (x : Nat → Input), IsRun σ x → FairAgents σ x → Inv (σ 0) → ∀ n,
    ((σ n).txnActive = true → ∃ m, n ≤ m ∧ (σ m).txnActive = false ∧ (σ m).result ≠ .pending) ∧
    ((σ n).sendsFrames → NotStoppedFrom σ x n → ∀ k, n ≤ k → ∃ m, k ≤ m ∧ FrameEndsAt σ x m)) ∧
  (∀ (L : Config.Layout) (h : Config.Header) (max : Config.SpinMax) (uid lo hi : Uid) (cc f : Byte) (pid : Half)
    (pd : List Byte),
    ReturnsWhenFair (buildpkt L h uid cc pid pd) ∧ ReturnsWhenFair (sendwait max f) ∧
    ReturnsWhenFair (discover L h max lo hi f) ∧ ReturnsWhenFair (mute L h max uid f) ∧
    ReturnsWhenFair (unmute L h max f) ∧ ReturnsWhenFair (get L h max uid pid f) ∧
    ReturnsWhenFair (set L h max uid pid pd f)) ∧
  (∀ (f : Byte) (π : Nat → HostProg CallResult) (σ : Nat → State) (x : Nat → Input), IsHostRun π σ x →
    π 0 = sendwait .unbounded f → ∀ n, (π n).ended ≠ some (.done .spinExhausted)) ∧
  (∀ n : Nat, ReturnsWhenFair (waitframe (.finite n))) ∧
  ∀ (π : Nat → HostProg Bool) (σ : Nat → State) (x : Nat → Input), IsHostRun π σ x → FairAgents σ x →
    FairHost π x → Inv (σ 0) → (σ 0).sendsFrames → π 0 = waitframe .unbounded → Returns π (.done true)
end

