-- ==== Sys2Proof/Laws/State.lean ====
section
/-! SUPPORT. One lemma per field for each named state update: what it leaves and what it writes. -/

namespace Sys2Proof.Machine

/-! ## `emit`: only the trace grows (R44) -/

@[simp] theorem emit_taskMode (y : Sym) (s : State) : (emit y s).taskMode = s.taskMode := rfl
@[simp] theorem emit_run (y : Sym) (s : State) : (emit y s).run = s.run := rfl
@[simp] theorem emit_txState (y : Sym) (s : State) : (emit y s).txState = s.txState := rfl
@[simp] theorem emit_rxState (y : Sym) (s : State) : (emit y s).rxState = s.rxState := rfl
@[simp] theorem emit_slotCount (y : Sym) (s : State) : (emit y s).slotCount = s.slotCount := rfl
@[simp] theorem emit_dir (y : Sym) (s : State) : (emit y s).dir = s.dir := rfl
@[simp] theorem emit_dirPin (y : Sym) (s : State) : (emit y s).dirPin = s.dirPin := rfl
@[simp] theorem emit_baudSel (y : Sym) (s : State) : (emit y s).baudSel = s.baudSel := rfl
@[simp] theorem emit_ieTxRdy (y : Sym) (s : State) : (emit y s).ieTxRdy = s.ieTxRdy := rfl
@[simp] theorem emit_ieTxDone (y : Sym) (s : State) : (emit y s).ieTxDone = s.ieTxDone := rfl
@[simp] theorem emit_ieRx (y : Sym) (s : State) : (emit y s).ieRx = s.ieRx := rfl
@[simp] theorem emit_hookFrameEn (y : Sym) (s : State) : (emit y s).hookFrameEn = s.hookFrameEn := rfl
@[simp] theorem emit_hookTxnEn (y : Sym) (s : State) : (emit y s).hookTxnEn = s.hookTxnEn := rfl
@[simp] theorem emit_respKind (y : Sym) (s : State) : (emit y s).respKind = s.respKind := rfl
@[simp] theorem emit_txIdx (y : Sym) (s : State) : (emit y s).txIdx = s.txIdx := rfl
@[simp] theorem emit_rxIdx (y : Sym) (s : State) : (emit y s).rxIdx = s.rxIdx := rfl
@[simp] theorem emit_rxLen (y : Sym) (s : State) : (emit y s).rxLen = s.rxLen := rfl
@[simp] theorem emit_tn (y : Sym) (s : State) : (emit y s).tn = s.tn := rfl
@[simp] theorem emit_txPktLen (y : Sym) (s : State) : (emit y s).txPktLen = s.txPktLen := rfl
@[simp] theorem emit_rxPktLen (y : Sym) (s : State) : (emit y s).rxPktLen = s.rxPktLen := rfl
@[simp] theorem emit_toCnt (y : Sym) (s : State) : (emit y s).toCnt = s.toCnt := rfl
@[simp] theorem emit_discUid (y : Sym) (s : State) : (emit y s).discUid = s.discUid := rfl
@[simp] theorem emit_frameSent (y : Sym) (s : State) : (emit y s).frameSent = s.frameSent := rfl
@[simp] theorem emit_frameRcvd (y : Sym) (s : State) : (emit y s).frameRcvd = s.frameRcvd := rfl
@[simp] theorem emit_txnRcvd (y : Sym) (s : State) : (emit y s).txnRcvd = s.txnRcvd := rfl
@[simp] theorem emit_cmdErr (y : Sym) (s : State) : (emit y s).cmdErr = s.cmdErr := rfl
@[simp] theorem emit_rxAny (y : Sym) (s : State) : (emit y s).rxAny = s.rxAny := rfl
@[simp] theorem emit_result (y : Sym) (s : State) : (emit y s).result = s.result := rfl
@[simp] theorem emit_malfCause (y : Sym) (s : State) : (emit y s).malfCause = s.malfCause := rfl
@[simp] theorem emit_txFrame (y : Sym) (s : State) : (emit y s).txFrame = s.txFrame := rfl
@[simp] theorem emit_rxFrame (y : Sym) (s : State) : (emit y s).rxFrame = s.rxFrame := rfl
@[simp] theorem emit_txPkt (y : Sym) (s : State) : (emit y s).txPkt = s.txPkt := rfl
@[simp] theorem emit_rxPkt (y : Sym) (s : State) : (emit y s).rxPkt = s.rxPkt := rfl
@[simp] theorem emit_txq (y : Sym) (s : State) : (emit y s).txq = s.txq := rfl
@[simp] theorem emit_txc (y : Sym) (s : State) : (emit y s).txc = s.txc := rfl
@[simp] theorem emit_trace (y : Sym) (s : State) : (emit y s).trace = s.trace ++ [y] := rfl
@[simp] theorem emit_resp (y : Sym) (s : State) : (emit y s).resp = s.resp := rfl
@[simp] theorem emit_schedule (y : Sym) (s : State) : (emit y s).schedule = s.schedule := rfl

/-! ## `setDir`: the level, and a symbol when a pin carries it (R169) -/

@[simp] theorem setDir_dir (l : Bool) (s : State) : (setDir l s).dir = l := by
  unfold setDir
  split
  · assumption
  · split <;> rfl

/-- `SetDir(l)` appends `Dir(l)` exactly when the level changes and a pin is set (R169). -/
theorem setDir_trace (l : Bool) (s : State) :
    (setDir l s).trace
      = if s.dir = l ∨ s.dirPin = Config.dirPinNone then s.trace else s.trace ++ [.dir l] := by
  unfold setDir
  by_cases h : s.dir = l
  · simp [h]
  · by_cases g : s.dirPin = Config.dirPinNone <;> simp [h, g]

/-- `SetDir(l)` at the level it has changes nothing (R169). -/
theorem setDir_same (s : State) : setDir s.dir s = s := by simp [setDir]

/-- `SetDir(l)` as one update of the level and the trace (R169). -/
theorem setDir_eq (l : Bool) (s : State) :
    setDir l s = { s with dir := l, trace := (setDir l s).trace } := by
  unfold setDir
  by_cases h : s.dir = l
  · subst h; simp
  · by_cases g : s.dirPin = Config.dirPinNone <;> simp [h, g]

@[simp] theorem setDir_taskMode (l : Bool) (s : State) : (setDir l s).taskMode = s.taskMode := by
  rw [setDir_eq]
@[simp] theorem setDir_run (l : Bool) (s : State) : (setDir l s).run = s.run := by
  rw [setDir_eq]
@[simp] theorem setDir_txState (l : Bool) (s : State) : (setDir l s).txState = s.txState := by
  rw [setDir_eq]
@[simp] theorem setDir_rxState (l : Bool) (s : State) : (setDir l s).rxState = s.rxState := by
  rw [setDir_eq]
@[simp] theorem setDir_slotCount (l : Bool) (s : State) : (setDir l s).slotCount = s.slotCount := by
  rw [setDir_eq]
@[simp] theorem setDir_dirPin (l : Bool) (s : State) : (setDir l s).dirPin = s.dirPin := by
  rw [setDir_eq]
@[simp] theorem setDir_baudSel (l : Bool) (s : State) : (setDir l s).baudSel = s.baudSel := by
  rw [setDir_eq]
@[simp] theorem setDir_ieTxRdy (l : Bool) (s : State) : (setDir l s).ieTxRdy = s.ieTxRdy := by
  rw [setDir_eq]
@[simp] theorem setDir_ieTxDone (l : Bool) (s : State) : (setDir l s).ieTxDone = s.ieTxDone := by
  rw [setDir_eq]
@[simp] theorem setDir_ieRx (l : Bool) (s : State) : (setDir l s).ieRx = s.ieRx := by
  rw [setDir_eq]
@[simp] theorem setDir_hookFrameEn (l : Bool) (s : State) : (setDir l s).hookFrameEn = s.hookFrameEn := by
  rw [setDir_eq]
@[simp] theorem setDir_hookTxnEn (l : Bool) (s : State) : (setDir l s).hookTxnEn = s.hookTxnEn := by
  rw [setDir_eq]
@[simp] theorem setDir_respKind (l : Bool) (s : State) : (setDir l s).respKind = s.respKind := by
  rw [setDir_eq]
@[simp] theorem setDir_txIdx (l : Bool) (s : State) : (setDir l s).txIdx = s.txIdx := by
  rw [setDir_eq]
@[simp] theorem setDir_rxIdx (l : Bool) (s : State) : (setDir l s).rxIdx = s.rxIdx := by
  rw [setDir_eq]
@[simp] theorem setDir_rxLen (l : Bool) (s : State) : (setDir l s).rxLen = s.rxLen := by
  rw [setDir_eq]
@[simp] theorem setDir_tn (l : Bool) (s : State) : (setDir l s).tn = s.tn := by
  rw [setDir_eq]
@[simp] theorem setDir_txPktLen (l : Bool) (s : State) : (setDir l s).txPktLen = s.txPktLen := by
  rw [setDir_eq]
@[simp] theorem setDir_rxPktLen (l : Bool) (s : State) : (setDir l s).rxPktLen = s.rxPktLen := by
  rw [setDir_eq]
@[simp] theorem setDir_toCnt (l : Bool) (s : State) : (setDir l s).toCnt = s.toCnt := by
  rw [setDir_eq]
@[simp] theorem setDir_discUid (l : Bool) (s : State) : (setDir l s).discUid = s.discUid := by
  rw [setDir_eq]
@[simp] theorem setDir_frameSent (l : Bool) (s : State) : (setDir l s).frameSent = s.frameSent := by
  rw [setDir_eq]
@[simp] theorem setDir_frameRcvd (l : Bool) (s : State) : (setDir l s).frameRcvd = s.frameRcvd := by
  rw [setDir_eq]
@[simp] theorem setDir_txnRcvd (l : Bool) (s : State) : (setDir l s).txnRcvd = s.txnRcvd := by
  rw [setDir_eq]
@[simp] theorem setDir_cmdErr (l : Bool) (s : State) : (setDir l s).cmdErr = s.cmdErr := by
  rw [setDir_eq]
@[simp] theorem setDir_rxAny (l : Bool) (s : State) : (setDir l s).rxAny = s.rxAny := by
  rw [setDir_eq]
@[simp] theorem setDir_result (l : Bool) (s : State) : (setDir l s).result = s.result := by
  rw [setDir_eq]
@[simp] theorem setDir_malfCause (l : Bool) (s : State) : (setDir l s).malfCause = s.malfCause := by
  rw [setDir_eq]
@[simp] theorem setDir_txFrame (l : Bool) (s : State) : (setDir l s).txFrame = s.txFrame := by
  rw [setDir_eq]
@[simp] theorem setDir_rxFrame (l : Bool) (s : State) : (setDir l s).rxFrame = s.rxFrame := by
  rw [setDir_eq]
@[simp] theorem setDir_txPkt (l : Bool) (s : State) : (setDir l s).txPkt = s.txPkt := by
  rw [setDir_eq]
@[simp] theorem setDir_rxPkt (l : Bool) (s : State) : (setDir l s).rxPkt = s.rxPkt := by
  rw [setDir_eq]
@[simp] theorem setDir_txq (l : Bool) (s : State) : (setDir l s).txq = s.txq := by
  rw [setDir_eq]
@[simp] theorem setDir_txc (l : Bool) (s : State) : (setDir l s).txc = s.txc := by
  rw [setDir_eq]
@[simp] theorem setDir_resp (l : Bool) (s : State) : (setDir l s).resp = s.resp := by
  rw [setDir_eq]
@[simp] theorem setDir_schedule (l : Bool) (s : State) : (setDir l s).schedule = s.schedule := by
  rw [setDir_eq]

/-! ## `withByte`: only the buffer named changes (R70) -/

@[simp] theorem withByte_taskMode (s : State) (b : Buf) (i : Nat) (v : Byte) :
    (s.withByte b i v).taskMode = s.taskMode := by
  cases b <;> rfl
@[simp] theorem withByte_run (s : State) (b : Buf) (i : Nat) (v : Byte) :
    (s.withByte b i v).run = s.run := by
  cases b <;> rfl
@[simp] theorem withByte_txState (s : State) (b : Buf) (i : Nat) (v : Byte) :
    (s.withByte b i v).txState = s.txState := by
  cases b <;> rfl
@[simp] theorem withByte_rxState (s : State) (b : Buf) (i : Nat) (v : Byte) :
    (s.withByte b i v).rxState = s.rxState := by
  cases b <;> rfl
@[simp] theorem withByte_slotCount (s : State) (b : Buf) (i : Nat) (v : Byte) :
    (s.withByte b i v).slotCount = s.slotCount := by
  cases b <;> rfl
@[simp] theorem withByte_dir (s : State) (b : Buf) (i : Nat) (v : Byte) :
    (s.withByte b i v).dir = s.dir := by
  cases b <;> rfl
@[simp] theorem withByte_dirPin (s : State) (b : Buf) (i : Nat) (v : Byte) :
    (s.withByte b i v).dirPin = s.dirPin := by
  cases b <;> rfl
@[simp] theorem withByte_baudSel (s : State) (b : Buf) (i : Nat) (v : Byte) :
    (s.withByte b i v).baudSel = s.baudSel := by
  cases b <;> rfl
@[simp] theorem withByte_ieTxRdy (s : State) (b : Buf) (i : Nat) (v : Byte) :
    (s.withByte b i v).ieTxRdy = s.ieTxRdy := by
  cases b <;> rfl
@[simp] theorem withByte_ieTxDone (s : State) (b : Buf) (i : Nat) (v : Byte) :
    (s.withByte b i v).ieTxDone = s.ieTxDone := by
  cases b <;> rfl
@[simp] theorem withByte_ieRx (s : State) (b : Buf) (i : Nat) (v : Byte) :
    (s.withByte b i v).ieRx = s.ieRx := by
  cases b <;> rfl
@[simp] theorem withByte_hookFrameEn (s : State) (b : Buf) (i : Nat) (v : Byte) :
    (s.withByte b i v).hookFrameEn = s.hookFrameEn := by
  cases b <;> rfl
@[simp] theorem withByte_hookTxnEn (s : State) (b : Buf) (i : Nat) (v : Byte) :
    (s.withByte b i v).hookTxnEn = s.hookTxnEn := by
  cases b <;> rfl
@[simp] theorem withByte_respKind (s : State) (b : Buf) (i : Nat) (v : Byte) :
    (s.withByte b i v).respKind = s.respKind := by
  cases b <;> rfl
@[simp] theorem withByte_txIdx (s : State) (b : Buf) (i : Nat) (v : Byte) :
    (s.withByte b i v).txIdx = s.txIdx := by
  cases b <;> rfl
@[simp] theorem withByte_rxIdx (s : State) (b : Buf) (i : Nat) (v : Byte) :
    (s.withByte b i v).rxIdx = s.rxIdx := by
  cases b <;> rfl
@[simp] theorem withByte_rxLen (s : State) (b : Buf) (i : Nat) (v : Byte) :
    (s.withByte b i v).rxLen = s.rxLen := by
  cases b <;> rfl
@[simp] theorem withByte_tn (s : State) (b : Buf) (i : Nat) (v : Byte) :
    (s.withByte b i v).tn = s.tn := by
  cases b <;> rfl
@[simp] theorem withByte_txPktLen (s : State) (b : Buf) (i : Nat) (v : Byte) :
    (s.withByte b i v).txPktLen = s.txPktLen := by
  cases b <;> rfl
@[simp] theorem withByte_rxPktLen (s : State) (b : Buf) (i : Nat) (v : Byte) :
    (s.withByte b i v).rxPktLen = s.rxPktLen := by
  cases b <;> rfl
@[simp] theorem withByte_toCnt (s : State) (b : Buf) (i : Nat) (v : Byte) :
    (s.withByte b i v).toCnt = s.toCnt := by
  cases b <;> rfl
@[simp] theorem withByte_discUid (s : State) (b : Buf) (i : Nat) (v : Byte) :
    (s.withByte b i v).discUid = s.discUid := by
  cases b <;> rfl
@[simp] theorem withByte_frameSent (s : State) (b : Buf) (i : Nat) (v : Byte) :
    (s.withByte b i v).frameSent = s.frameSent := by
  cases b <;> rfl
@[simp] theorem withByte_frameRcvd (s : State) (b : Buf) (i : Nat) (v : Byte) :
    (s.withByte b i v).frameRcvd = s.frameRcvd := by
  cases b <;> rfl
@[simp] theorem withByte_txnRcvd (s : State) (b : Buf) (i : Nat) (v : Byte) :
    (s.withByte b i v).txnRcvd = s.txnRcvd := by
  cases b <;> rfl
@[simp] theorem withByte_cmdErr (s : State) (b : Buf) (i : Nat) (v : Byte) :
    (s.withByte b i v).cmdErr = s.cmdErr := by
  cases b <;> rfl
@[simp] theorem withByte_rxAny (s : State) (b : Buf) (i : Nat) (v : Byte) :
    (s.withByte b i v).rxAny = s.rxAny := by
  cases b <;> rfl
@[simp] theorem withByte_result (s : State) (b : Buf) (i : Nat) (v : Byte) :
    (s.withByte b i v).result = s.result := by
  cases b <;> rfl
@[simp] theorem withByte_malfCause (s : State) (b : Buf) (i : Nat) (v : Byte) :
    (s.withByte b i v).malfCause = s.malfCause := by
  cases b <;> rfl
@[simp] theorem withByte_txq (s : State) (b : Buf) (i : Nat) (v : Byte) :
    (s.withByte b i v).txq = s.txq := by
  cases b <;> rfl
@[simp] theorem withByte_txc (s : State) (b : Buf) (i : Nat) (v : Byte) :
    (s.withByte b i v).txc = s.txc := by
  cases b <;> rfl
@[simp] theorem withByte_trace (s : State) (b : Buf) (i : Nat) (v : Byte) :
    (s.withByte b i v).trace = s.trace := by
  cases b <;> rfl
@[simp] theorem withByte_resp (s : State) (b : Buf) (i : Nat) (v : Byte) :
    (s.withByte b i v).resp = s.resp := by
  cases b <;> rfl
@[simp] theorem withByte_schedule (s : State) (b : Buf) (i : Nat) (v : Byte) :
    (s.withByte b i v).schedule = s.schedule := by
  cases b <;> rfl
@[simp] theorem withByte_txFrame_txFrame (s : State) (i : Nat) (v : Byte) :
    (s.withByte .txFrame i v).txFrame = s.txFrame.write i v := rfl
@[simp] theorem withByte_rxFrame_txFrame (s : State) (i : Nat) (v : Byte) :
    (s.withByte .rxFrame i v).txFrame = s.txFrame := rfl
@[simp] theorem withByte_txPkt_txFrame (s : State) (i : Nat) (v : Byte) :
    (s.withByte .txPkt i v).txFrame = s.txFrame := rfl
@[simp] theorem withByte_rxPkt_txFrame (s : State) (i : Nat) (v : Byte) :
    (s.withByte .rxPkt i v).txFrame = s.txFrame := rfl
@[simp] theorem withByte_txFrame_rxFrame (s : State) (i : Nat) (v : Byte) :
    (s.withByte .txFrame i v).rxFrame = s.rxFrame := rfl
@[simp] theorem withByte_rxFrame_rxFrame (s : State) (i : Nat) (v : Byte) :
    (s.withByte .rxFrame i v).rxFrame = s.rxFrame.write i v := rfl
@[simp] theorem withByte_txPkt_rxFrame (s : State) (i : Nat) (v : Byte) :
    (s.withByte .txPkt i v).rxFrame = s.rxFrame := rfl
@[simp] theorem withByte_rxPkt_rxFrame (s : State) (i : Nat) (v : Byte) :
    (s.withByte .rxPkt i v).rxFrame = s.rxFrame := rfl
@[simp] theorem withByte_txFrame_txPkt (s : State) (i : Nat) (v : Byte) :
    (s.withByte .txFrame i v).txPkt = s.txPkt := rfl
@[simp] theorem withByte_rxFrame_txPkt (s : State) (i : Nat) (v : Byte) :
    (s.withByte .rxFrame i v).txPkt = s.txPkt := rfl
@[simp] theorem withByte_txPkt_txPkt (s : State) (i : Nat) (v : Byte) :
    (s.withByte .txPkt i v).txPkt = s.txPkt.write i v := rfl
@[simp] theorem withByte_rxPkt_txPkt (s : State) (i : Nat) (v : Byte) :
    (s.withByte .rxPkt i v).txPkt = s.txPkt := rfl
@[simp] theorem withByte_txFrame_rxPkt (s : State) (i : Nat) (v : Byte) :
    (s.withByte .txFrame i v).rxPkt = s.rxPkt := rfl
@[simp] theorem withByte_rxFrame_rxPkt (s : State) (i : Nat) (v : Byte) :
    (s.withByte .rxFrame i v).rxPkt = s.rxPkt := rfl
@[simp] theorem withByte_txPkt_rxPkt (s : State) (i : Nat) (v : Byte) :
    (s.withByte .txPkt i v).rxPkt = s.rxPkt := rfl
@[simp] theorem withByte_rxPkt_rxPkt (s : State) (i : Nat) (v : Byte) :
    (s.withByte .rxPkt i v).rxPkt = s.rxPkt.write i v := rfl

/-! ## `reportFrame`: RXLEN, FRAME_RCVD and the hook (R203) -/

@[simp] theorem reportFrame_taskMode (n : BitVec 10) (s : State) : (reportFrame n s).taskMode = s.taskMode := by
  unfold reportFrame; split <;> rfl
@[simp] theorem reportFrame_run (n : BitVec 10) (s : State) : (reportFrame n s).run = s.run := by
  unfold reportFrame; split <;> rfl
@[simp] theorem reportFrame_txState (n : BitVec 10) (s : State) : (reportFrame n s).txState = s.txState := by
  unfold reportFrame; split <;> rfl
@[simp] theorem reportFrame_rxState (n : BitVec 10) (s : State) : (reportFrame n s).rxState = s.rxState := by
  unfold reportFrame; split <;> rfl
@[simp] theorem reportFrame_slotCount (n : BitVec 10) (s : State) : (reportFrame n s).slotCount = s.slotCount := by
  unfold reportFrame; split <;> rfl
@[simp] theorem reportFrame_dir (n : BitVec 10) (s : State) : (reportFrame n s).dir = s.dir := by
  unfold reportFrame; split <;> rfl
@[simp] theorem reportFrame_dirPin (n : BitVec 10) (s : State) : (reportFrame n s).dirPin = s.dirPin := by
  unfold reportFrame; split <;> rfl
@[simp] theorem reportFrame_baudSel (n : BitVec 10) (s : State) : (reportFrame n s).baudSel = s.baudSel := by
  unfold reportFrame; split <;> rfl
@[simp] theorem reportFrame_ieTxRdy (n : BitVec 10) (s : State) : (reportFrame n s).ieTxRdy = s.ieTxRdy := by
  unfold reportFrame; split <;> rfl
@[simp] theorem reportFrame_ieTxDone (n : BitVec 10) (s : State) : (reportFrame n s).ieTxDone = s.ieTxDone := by
  unfold reportFrame; split <;> rfl
@[simp] theorem reportFrame_ieRx (n : BitVec 10) (s : State) : (reportFrame n s).ieRx = s.ieRx := by
  unfold reportFrame; split <;> rfl
@[simp] theorem reportFrame_hookFrameEn (n : BitVec 10) (s : State) : (reportFrame n s).hookFrameEn = s.hookFrameEn := by
  unfold reportFrame; split <;> rfl
@[simp] theorem reportFrame_hookTxnEn (n : BitVec 10) (s : State) : (reportFrame n s).hookTxnEn = s.hookTxnEn := by
  unfold reportFrame; split <;> rfl
@[simp] theorem reportFrame_respKind (n : BitVec 10) (s : State) : (reportFrame n s).respKind = s.respKind := by
  unfold reportFrame; split <;> rfl
@[simp] theorem reportFrame_txIdx (n : BitVec 10) (s : State) : (reportFrame n s).txIdx = s.txIdx := by
  unfold reportFrame; split <;> rfl
@[simp] theorem reportFrame_rxIdx (n : BitVec 10) (s : State) : (reportFrame n s).rxIdx = s.rxIdx := by
  unfold reportFrame; split <;> rfl
@[simp] theorem reportFrame_rxLen (n : BitVec 10) (s : State) : (reportFrame n s).rxLen = n := by
  unfold reportFrame; split <;> rfl
@[simp] theorem reportFrame_tn (n : BitVec 10) (s : State) : (reportFrame n s).tn = s.tn := by
  unfold reportFrame; split <;> rfl
@[simp] theorem reportFrame_txPktLen (n : BitVec 10) (s : State) : (reportFrame n s).txPktLen = s.txPktLen := by
  unfold reportFrame; split <;> rfl
@[simp] theorem reportFrame_rxPktLen (n : BitVec 10) (s : State) : (reportFrame n s).rxPktLen = s.rxPktLen := by
  unfold reportFrame; split <;> rfl
@[simp] theorem reportFrame_toCnt (n : BitVec 10) (s : State) : (reportFrame n s).toCnt = s.toCnt := by
  unfold reportFrame; split <;> rfl
@[simp] theorem reportFrame_discUid (n : BitVec 10) (s : State) : (reportFrame n s).discUid = s.discUid := by
  unfold reportFrame; split <;> rfl
@[simp] theorem reportFrame_frameSent (n : BitVec 10) (s : State) : (reportFrame n s).frameSent = s.frameSent := by
  unfold reportFrame; split <;> rfl
@[simp] theorem reportFrame_frameRcvd (n : BitVec 10) (s : State) : (reportFrame n s).frameRcvd = true := by
  unfold reportFrame; split <;> rfl
@[simp] theorem reportFrame_txnRcvd (n : BitVec 10) (s : State) : (reportFrame n s).txnRcvd = s.txnRcvd := by
  unfold reportFrame; split <;> rfl
@[simp] theorem reportFrame_cmdErr (n : BitVec 10) (s : State) : (reportFrame n s).cmdErr = s.cmdErr := by
  unfold reportFrame; split <;> rfl
@[simp] theorem reportFrame_rxAny (n : BitVec 10) (s : State) : (reportFrame n s).rxAny = s.rxAny := by
  unfold reportFrame; split <;> rfl
@[simp] theorem reportFrame_result (n : BitVec 10) (s : State) : (reportFrame n s).result = s.result := by
  unfold reportFrame; split <;> rfl
@[simp] theorem reportFrame_malfCause (n : BitVec 10) (s : State) : (reportFrame n s).malfCause = s.malfCause := by
  unfold reportFrame; split <;> rfl
@[simp] theorem reportFrame_txFrame (n : BitVec 10) (s : State) : (reportFrame n s).txFrame = s.txFrame := by
  unfold reportFrame; split <;> rfl
@[simp] theorem reportFrame_rxFrame (n : BitVec 10) (s : State) : (reportFrame n s).rxFrame = s.rxFrame := by
  unfold reportFrame; split <;> rfl
@[simp] theorem reportFrame_txPkt (n : BitVec 10) (s : State) : (reportFrame n s).txPkt = s.txPkt := by
  unfold reportFrame; split <;> rfl
@[simp] theorem reportFrame_rxPkt (n : BitVec 10) (s : State) : (reportFrame n s).rxPkt = s.rxPkt := by
  unfold reportFrame; split <;> rfl
@[simp] theorem reportFrame_txq (n : BitVec 10) (s : State) : (reportFrame n s).txq = s.txq := by
  unfold reportFrame; split <;> rfl
@[simp] theorem reportFrame_txc (n : BitVec 10) (s : State) : (reportFrame n s).txc = s.txc := by
  unfold reportFrame; split <;> rfl
theorem reportFrame_trace (n : BitVec 10) (s : State) :
    (reportFrame n s).trace
      = if s.hookFrameEn then s.trace ++ [.notify .frame n.toNat] else s.trace := by
  unfold reportFrame; split <;> rfl
@[simp] theorem reportFrame_resp (n : BitVec 10) (s : State) : (reportFrame n s).resp = s.resp := by
  unfold reportFrame; split <;> rfl
@[simp] theorem reportFrame_schedule (n : BitVec 10) (s : State) : (reportFrame n s).schedule = s.schedule := by
  unfold reportFrame; split <;> rfl

/-! ## `recordOutcome`: the outcome, the receiver off, the flag and the hook (R225) -/

@[simp] theorem recordOutcome_taskMode (v : Verdict) (n : BitVec 9) (s : State) :
    (recordOutcome v n s).taskMode = s.taskMode := by
  unfold recordOutcome; dsimp only; split
  · split <;> rfl
  · rfl
@[simp] theorem recordOutcome_run (v : Verdict) (n : BitVec 9) (s : State) :
    (recordOutcome v n s).run = s.run := by
  unfold recordOutcome; dsimp only; split
  · split <;> rfl
  · rfl
@[simp] theorem recordOutcome_txState (v : Verdict) (n : BitVec 9) (s : State) :
    (recordOutcome v n s).txState = s.txState := by
  unfold recordOutcome; dsimp only; split
  · split <;> rfl
  · rfl
@[simp] theorem recordOutcome_rxState (v : Verdict) (n : BitVec 9) (s : State) :
    (recordOutcome v n s).rxState = .rxIdle := by
  unfold recordOutcome; dsimp only; split
  · split <;> rfl
  · rfl
@[simp] theorem recordOutcome_slotCount (v : Verdict) (n : BitVec 9) (s : State) :
    (recordOutcome v n s).slotCount = s.slotCount := by
  unfold recordOutcome; dsimp only; split
  · split <;> rfl
  · rfl
@[simp] theorem recordOutcome_dir (v : Verdict) (n : BitVec 9) (s : State) :
    (recordOutcome v n s).dir = s.dir := by
  unfold recordOutcome; dsimp only; split
  · split <;> rfl
  · rfl
@[simp] theorem recordOutcome_dirPin (v : Verdict) (n : BitVec 9) (s : State) :
    (recordOutcome v n s).dirPin = s.dirPin := by
  unfold recordOutcome; dsimp only; split
  · split <;> rfl
  · rfl
@[simp] theorem recordOutcome_baudSel (v : Verdict) (n : BitVec 9) (s : State) :
    (recordOutcome v n s).baudSel = s.baudSel := by
  unfold recordOutcome; dsimp only; split
  · split <;> rfl
  · rfl
@[simp] theorem recordOutcome_ieTxRdy (v : Verdict) (n : BitVec 9) (s : State) :
    (recordOutcome v n s).ieTxRdy = s.ieTxRdy := by
  unfold recordOutcome; dsimp only; split
  · split <;> rfl
  · rfl
@[simp] theorem recordOutcome_ieTxDone (v : Verdict) (n : BitVec 9) (s : State) :
    (recordOutcome v n s).ieTxDone = s.ieTxDone := by
  unfold recordOutcome; dsimp only; split
  · split <;> rfl
  · rfl
@[simp] theorem recordOutcome_ieRx (v : Verdict) (n : BitVec 9) (s : State) :
    (recordOutcome v n s).ieRx = false := by
  unfold recordOutcome; dsimp only; split
  · split <;> rfl
  · rfl
@[simp] theorem recordOutcome_hookFrameEn (v : Verdict) (n : BitVec 9) (s : State) :
    (recordOutcome v n s).hookFrameEn = s.hookFrameEn := by
  unfold recordOutcome; dsimp only; split
  · split <;> rfl
  · rfl
@[simp] theorem recordOutcome_hookTxnEn (v : Verdict) (n : BitVec 9) (s : State) :
    (recordOutcome v n s).hookTxnEn = s.hookTxnEn := by
  unfold recordOutcome; dsimp only; split
  · split <;> rfl
  · rfl
@[simp] theorem recordOutcome_respKind (v : Verdict) (n : BitVec 9) (s : State) :
    (recordOutcome v n s).respKind = s.respKind := by
  unfold recordOutcome; dsimp only; split
  · split <;> rfl
  · rfl
@[simp] theorem recordOutcome_txIdx (v : Verdict) (n : BitVec 9) (s : State) :
    (recordOutcome v n s).txIdx = s.txIdx := by
  unfold recordOutcome; dsimp only; split
  · split <;> rfl
  · rfl
@[simp] theorem recordOutcome_rxIdx (v : Verdict) (n : BitVec 9) (s : State) :
    (recordOutcome v n s).rxIdx = s.rxIdx := by
  unfold recordOutcome; dsimp only; split
  · split <;> rfl
  · rfl
@[simp] theorem recordOutcome_rxLen (v : Verdict) (n : BitVec 9) (s : State) :
    (recordOutcome v n s).rxLen = s.rxLen := by
  unfold recordOutcome; dsimp only; split
  · split <;> rfl
  · rfl
@[simp] theorem recordOutcome_tn (v : Verdict) (n : BitVec 9) (s : State) :
    (recordOutcome v n s).tn = s.tn := by
  unfold recordOutcome; dsimp only; split
  · split <;> rfl
  · rfl
@[simp] theorem recordOutcome_txPktLen (v : Verdict) (n : BitVec 9) (s : State) :
    (recordOutcome v n s).txPktLen = s.txPktLen := by
  unfold recordOutcome; dsimp only; split
  · split <;> rfl
  · rfl
@[simp] theorem recordOutcome_rxPktLen (v : Verdict) (n : BitVec 9) (s : State) :
    (recordOutcome v n s).rxPktLen = n := by
  unfold recordOutcome; dsimp only; split
  · split <;> rfl
  · rfl
@[simp] theorem recordOutcome_toCnt (v : Verdict) (n : BitVec 9) (s : State) :
    (recordOutcome v n s).toCnt = s.toCnt := by
  unfold recordOutcome; dsimp only; split
  · split <;> rfl
  · rfl
@[simp] theorem recordOutcome_discUid (v : Verdict) (n : BitVec 9) (s : State) :
    (recordOutcome v n s).discUid = s.discUid := by
  unfold recordOutcome; dsimp only; split
  · split <;> rfl
  · rfl
@[simp] theorem recordOutcome_frameSent (v : Verdict) (n : BitVec 9) (s : State) :
    (recordOutcome v n s).frameSent = s.frameSent := by
  unfold recordOutcome; dsimp only; split
  · split <;> rfl
  · rfl
@[simp] theorem recordOutcome_frameRcvd (v : Verdict) (n : BitVec 9) (s : State) :
    (recordOutcome v n s).frameRcvd = s.frameRcvd := by
  unfold recordOutcome; dsimp only; split
  · split <;> rfl
  · rfl
theorem recordOutcome_txnRcvd (v : Verdict) (n : BitVec 9) (s : State) :
    (recordOutcome v n s).txnRcvd = (s.txnRcvd || decide (v.result = .valid)) := by
  unfold recordOutcome
  by_cases h : v.result = .valid <;> by_cases g : s.hookTxnEn = true <;> simp [h, g]
@[simp] theorem recordOutcome_cmdErr (v : Verdict) (n : BitVec 9) (s : State) :
    (recordOutcome v n s).cmdErr = s.cmdErr := by
  unfold recordOutcome; dsimp only; split
  · split <;> rfl
  · rfl
@[simp] theorem recordOutcome_rxAny (v : Verdict) (n : BitVec 9) (s : State) :
    (recordOutcome v n s).rxAny = s.rxAny := by
  unfold recordOutcome; dsimp only; split
  · split <;> rfl
  · rfl
@[simp] theorem recordOutcome_result (v : Verdict) (n : BitVec 9) (s : State) :
    (recordOutcome v n s).result = v.result := by
  unfold recordOutcome; dsimp only; split
  · split <;> rfl
  · rfl
@[simp] theorem recordOutcome_malfCause (v : Verdict) (n : BitVec 9) (s : State) :
    (recordOutcome v n s).malfCause = v.cause := by
  unfold recordOutcome; dsimp only; split
  · split <;> rfl
  · rfl
@[simp] theorem recordOutcome_txFrame (v : Verdict) (n : BitVec 9) (s : State) :
    (recordOutcome v n s).txFrame = s.txFrame := by
  unfold recordOutcome; dsimp only; split
  · split <;> rfl
  · rfl
@[simp] theorem recordOutcome_rxFrame (v : Verdict) (n : BitVec 9) (s : State) :
    (recordOutcome v n s).rxFrame = s.rxFrame := by
  unfold recordOutcome; dsimp only; split
  · split <;> rfl
  · rfl
@[simp] theorem recordOutcome_txPkt (v : Verdict) (n : BitVec 9) (s : State) :
    (recordOutcome v n s).txPkt = s.txPkt := by
  unfold recordOutcome; dsimp only; split
  · split <;> rfl
  · rfl
@[simp] theorem recordOutcome_rxPkt (v : Verdict) (n : BitVec 9) (s : State) :
    (recordOutcome v n s).rxPkt = s.rxPkt := by
  unfold recordOutcome; dsimp only; split
  · split <;> rfl
  · rfl
@[simp] theorem recordOutcome_txq (v : Verdict) (n : BitVec 9) (s : State) :
    (recordOutcome v n s).txq = s.txq := by
  unfold recordOutcome; dsimp only; split
  · split <;> rfl
  · rfl
@[simp] theorem recordOutcome_txc (v : Verdict) (n : BitVec 9) (s : State) :
    (recordOutcome v n s).txc = s.txc := by
  unfold recordOutcome; dsimp only; split
  · split <;> rfl
  · rfl
theorem recordOutcome_trace (v : Verdict) (n : BitVec 9) (s : State) :
    (recordOutcome v n s).trace
      = if v.result = .valid ∧ s.hookTxnEn = true then s.trace ++ [.notify .txn s.rxIdx.toNat]
        else s.trace := by
  unfold recordOutcome
  by_cases h : v.result = .valid <;> by_cases g : s.hookTxnEn = true <;> simp [h, g]
@[simp] theorem recordOutcome_resp (v : Verdict) (n : BitVec 9) (s : State) :
    (recordOutcome v n s).resp = s.resp := by
  unfold recordOutcome; dsimp only; split
  · split <;> rfl
  · rfl
@[simp] theorem recordOutcome_schedule (v : Verdict) (n : BitVec 9) (s : State) :
    (recordOutcome v n s).schedule = s.schedule := by
  unfold recordOutcome; dsimp only; split
  · split <;> rfl
  · rfl

/-! ## `sendtxnAccepted`: the result, the kind and the mode (R166) -/

@[simp] theorem sendtxnAccepted_taskMode (v : Byte) (s : State) :
    (sendtxnAccepted v s).taskMode = (if flagBit v 0 then .sendTxnResume else .sendTxn) := rfl
@[simp] theorem sendtxnAccepted_run (v : Byte) (s : State) :
    (sendtxnAccepted v s).run = s.run := rfl
@[simp] theorem sendtxnAccepted_txState (v : Byte) (s : State) :
    (sendtxnAccepted v s).txState = s.txState := rfl
@[simp] theorem sendtxnAccepted_rxState (v : Byte) (s : State) :
    (sendtxnAccepted v s).rxState = s.rxState := rfl
@[simp] theorem sendtxnAccepted_slotCount (v : Byte) (s : State) :
    (sendtxnAccepted v s).slotCount = s.slotCount := rfl
@[simp] theorem sendtxnAccepted_dir (v : Byte) (s : State) :
    (sendtxnAccepted v s).dir = s.dir := rfl
@[simp] theorem sendtxnAccepted_dirPin (v : Byte) (s : State) :
    (sendtxnAccepted v s).dirPin = s.dirPin := rfl
@[simp] theorem sendtxnAccepted_baudSel (v : Byte) (s : State) :
    (sendtxnAccepted v s).baudSel = s.baudSel := rfl
@[simp] theorem sendtxnAccepted_ieTxRdy (v : Byte) (s : State) :
    (sendtxnAccepted v s).ieTxRdy = s.ieTxRdy := rfl
@[simp] theorem sendtxnAccepted_ieTxDone (v : Byte) (s : State) :
    (sendtxnAccepted v s).ieTxDone = s.ieTxDone := rfl
@[simp] theorem sendtxnAccepted_ieRx (v : Byte) (s : State) :
    (sendtxnAccepted v s).ieRx = s.ieRx := rfl
@[simp] theorem sendtxnAccepted_hookFrameEn (v : Byte) (s : State) :
    (sendtxnAccepted v s).hookFrameEn = s.hookFrameEn := rfl
@[simp] theorem sendtxnAccepted_hookTxnEn (v : Byte) (s : State) :
    (sendtxnAccepted v s).hookTxnEn = s.hookTxnEn := rfl
@[simp] theorem sendtxnAccepted_respKind (v : Byte) (s : State) :
    (sendtxnAccepted v s).respKind = (if flagBit v 1 then .discovery else .addressed) := rfl
@[simp] theorem sendtxnAccepted_txIdx (v : Byte) (s : State) :
    (sendtxnAccepted v s).txIdx = s.txIdx := rfl
@[simp] theorem sendtxnAccepted_rxIdx (v : Byte) (s : State) :
    (sendtxnAccepted v s).rxIdx = s.rxIdx := rfl
@[simp] theorem sendtxnAccepted_rxLen (v : Byte) (s : State) :
    (sendtxnAccepted v s).rxLen = s.rxLen := rfl
@[simp] theorem sendtxnAccepted_tn (v : Byte) (s : State) :
    (sendtxnAccepted v s).tn = s.tn := rfl
@[simp] theorem sendtxnAccepted_txPktLen (v : Byte) (s : State) :
    (sendtxnAccepted v s).txPktLen = s.txPktLen := rfl
@[simp] theorem sendtxnAccepted_rxPktLen (v : Byte) (s : State) :
    (sendtxnAccepted v s).rxPktLen = s.rxPktLen := rfl
@[simp] theorem sendtxnAccepted_toCnt (v : Byte) (s : State) :
    (sendtxnAccepted v s).toCnt = s.toCnt := rfl
@[simp] theorem sendtxnAccepted_discUid (v : Byte) (s : State) :
    (sendtxnAccepted v s).discUid = s.discUid := rfl
@[simp] theorem sendtxnAccepted_frameSent (v : Byte) (s : State) :
    (sendtxnAccepted v s).frameSent = s.frameSent := rfl
@[simp] theorem sendtxnAccepted_frameRcvd (v : Byte) (s : State) :
    (sendtxnAccepted v s).frameRcvd = s.frameRcvd := rfl
@[simp] theorem sendtxnAccepted_txnRcvd (v : Byte) (s : State) :
    (sendtxnAccepted v s).txnRcvd = s.txnRcvd := rfl
@[simp] theorem sendtxnAccepted_cmdErr (v : Byte) (s : State) :
    (sendtxnAccepted v s).cmdErr = s.cmdErr := rfl
@[simp] theorem sendtxnAccepted_rxAny (v : Byte) (s : State) :
    (sendtxnAccepted v s).rxAny = s.rxAny := rfl
@[simp] theorem sendtxnAccepted_result (v : Byte) (s : State) :
    (sendtxnAccepted v s).result = .pending := rfl
@[simp] theorem sendtxnAccepted_malfCause (v : Byte) (s : State) :
    (sendtxnAccepted v s).malfCause = .none := rfl
@[simp] theorem sendtxnAccepted_txFrame (v : Byte) (s : State) :
    (sendtxnAccepted v s).txFrame = s.txFrame := rfl
@[simp] theorem sendtxnAccepted_rxFrame (v : Byte) (s : State) :
    (sendtxnAccepted v s).rxFrame = s.rxFrame := rfl
@[simp] theorem sendtxnAccepted_txPkt (v : Byte) (s : State) :
    (sendtxnAccepted v s).txPkt = s.txPkt := rfl
@[simp] theorem sendtxnAccepted_rxPkt (v : Byte) (s : State) :
    (sendtxnAccepted v s).rxPkt = s.rxPkt := rfl
@[simp] theorem sendtxnAccepted_txq (v : Byte) (s : State) :
    (sendtxnAccepted v s).txq = s.txq := rfl
@[simp] theorem sendtxnAccepted_txc (v : Byte) (s : State) :
    (sendtxnAccepted v s).txc = s.txc := rfl
@[simp] theorem sendtxnAccepted_trace (v : Byte) (s : State) :
    (sendtxnAccepted v s).trace = s.trace := rfl
@[simp] theorem sendtxnAccepted_resp (v : Byte) (s : State) :
    (sendtxnAccepted v s).resp = s.resp := rfl
@[simp] theorem sendtxnAccepted_schedule (v : Byte) (s : State) :
    (sendtxnAccepted v s).schedule = s.schedule := rfl

/-- An accepted `SENDTXN` makes the transaction active (R166, R50). -/
@[simp] theorem sendtxnAccepted_txnActive (v : Byte) (s : State) :
    (sendtxnAccepted v s).txnActive = true := by
  unfold State.txnActive sendtxnAccepted
  by_cases h : flagBit v 0 = true <;> simp [h]

end Sys2Proof.Machine
end

