-- ==== Sys2Proof/Laws/Memory.lean ====
section
/-! SUPPORT. The laws of memory: read after write, the canonical form kept by every operation, equal reads give equal
memories, and a buffer's bytes through `byteAt`. -/

namespace Sys2Proof.Machine

@[simp] theorem Memory.read_nil (a : Nat) : Memory.read [] a = Memory.unlisted := rfl

theorem Memory.read_cons (k : Nat) (x : Byte) (m : Memory) (a : Nat) :
    Memory.read ((k, x) :: m) a = if k = a then x else Memory.read m a := rfl

/-- An index below every entry reads as an unlisted one. -/
theorem Memory.read_below (m : Memory) : ∀ (lo a : Nat), Memory.wfFrom lo m = true → a < lo →
    m.read a = Memory.unlisted := by
  induction m with
  | nil => intro lo a _ _; rfl
  | cons c m ih =>
    obtain ⟨k, x⟩ := c
    intro lo a h ha
    simp only [Memory.wfFrom, Bool.and_eq_true, decide_eq_true_eq] at h
    rw [Memory.read_cons, if_neg (by omega)]
    exact ih (k + 1) a h.2 (by omega)

theorem Memory.wfFrom_mono (m : Memory) {lo lo' : Nat} (hl : lo' ≤ lo)
    (h : Memory.wfFrom lo m = true) : Memory.wfFrom lo' m = true := by
  cases m with
  | nil => rfl
  | cons c m =>
    obtain ⟨k, x⟩ := c
    simp only [Memory.wfFrom, Bool.and_eq_true, decide_eq_true_eq] at h ⊢
    exact ⟨⟨by omega, h.1.2⟩, h.2⟩

theorem Memory.read_entry_same (a : Nat) (v : Byte) (m : Memory) (h : m.read a = Memory.unlisted) :
    (Memory.entry a v m).read a = v := by
  unfold Memory.entry
  split
  · rw [h]; exact (by assumption : v = Memory.unlisted).symm
  · simp [Memory.read_cons]

theorem Memory.read_entry_other {a i : Nat} (hi : i ≠ a) (v : Byte) (m : Memory) :
    (Memory.entry a v m).read i = m.read i := by
  unfold Memory.entry
  split
  · rfl
  · rw [Memory.read_cons, if_neg (fun h => hi h.symm)]

theorem Memory.wfFrom_entry {lo a : Nat} (v : Byte) (m : Memory) (hlo : lo ≤ a)
    (h : Memory.wfFrom (a + 1) m = true) : Memory.wfFrom lo (Memory.entry a v m) = true := by
  unfold Memory.entry
  split
  · exact Memory.wfFrom_mono m (by omega) h
  · rename_i hv
    simp [Memory.wfFrom, hlo, hv, h]

/-- A write keeps the canonical form. -/
theorem Memory.wfFrom_write (m : Memory) (a : Nat) (v : Byte) : ∀ lo, lo ≤ a →
    Memory.wfFrom lo m = true → Memory.wfFrom lo (m.write a v) = true := by
  induction m with
  | nil => intro lo hlo _; exact Memory.wfFrom_entry v [] hlo rfl
  | cons c m ih =>
    obtain ⟨k, x⟩ := c
    intro lo hlo h
    have h' := h
    simp only [Memory.wfFrom, Bool.and_eq_true, decide_eq_true_eq] at h'
    unfold Memory.write
    split
    · apply Memory.wfFrom_entry v _ hlo
      simp only [Memory.wfFrom, Bool.and_eq_true, decide_eq_true_eq]
      exact ⟨⟨by omega, h'.1.2⟩, h'.2⟩
    · split
      · subst a; exact Memory.wfFrom_entry v m hlo h'.2
      · simp only [Memory.wfFrom, Bool.and_eq_true, decide_eq_true_eq]
        exact ⟨⟨h'.1.1, h'.1.2⟩, ih (k + 1) (by omega) h'.2⟩

/-- A write keeps the canonical form. -/
theorem Memory.wf_write {m : Memory} (h : m.wf = true) (a : Nat) (v : Byte) :
    (m.write a v).wf = true := Memory.wfFrom_write m a v 0 (Nat.zero_le a) h

theorem Memory.below_entry {n a : Nat} (ha : a < n) (v : Byte) {m : Memory}
    (h : Memory.below n m = true) : Memory.below n (Memory.entry a v m) = true := by
  unfold Memory.entry
  split
  · exact h
  · simp only [Memory.below, List.all_cons, Bool.and_eq_true, decide_eq_true_eq] at h ⊢
    exact ⟨ha, h⟩

/-- A write inside the bounds stays inside the bounds. -/
theorem Memory.below_write {n a : Nat} (ha : a < n) (v : Byte) (m : Memory)
    (h : Memory.below n m = true) : Memory.below n (m.write a v) = true := by
  induction m with
  | nil => exact Memory.below_entry ha v h
  | cons c m ih =>
    obtain ⟨k, x⟩ := c
    have h' := h
    simp only [Memory.below, List.all_cons, Bool.and_eq_true, decide_eq_true_eq] at h'
    unfold Memory.write
    split
    · exact Memory.below_entry ha v h
    · split
      · exact Memory.below_entry ha v h'.2
      · simp only [Memory.below, List.all_cons, Bool.and_eq_true, decide_eq_true_eq]
        exact ⟨h'.1, ih h'.2⟩

/-- The byte written is the byte read, on a canonical memory. -/
theorem Memory.read_write_same (m : Memory) (a : Nat) (v : Byte) : ∀ lo,
    Memory.wfFrom lo m = true → (m.write a v).read a = v := by
  induction m with
  | nil => intro lo _; exact Memory.read_entry_same a v [] rfl
  | cons c m ih =>
    obtain ⟨k, x⟩ := c
    intro lo h
    have h' := h
    simp only [Memory.wfFrom, Bool.and_eq_true, decide_eq_true_eq] at h'
    unfold Memory.write
    split
    · apply Memory.read_entry_same
      rw [Memory.read_cons, if_neg (by omega)]
      exact Memory.read_below m (k + 1) a h'.2 (by omega)
    · split
      · subst a
        exact Memory.read_entry_same k v m (Memory.read_below m (k + 1) k h'.2 (by omega))
      · rw [Memory.read_cons, if_neg (by omega)]
        exact ih (k + 1) h'.2

/-- Every other byte reads as before. -/
theorem Memory.read_write_other {a i : Nat} (hi : i ≠ a) (v : Byte) (m : Memory) :
    (m.write a v).read i = m.read i := by
  induction m with
  | nil => exact Memory.read_entry_other hi v []
  | cons c m ih =>
    obtain ⟨k, x⟩ := c
    unfold Memory.write
    split
    · exact Memory.read_entry_other hi v _
    · split
      · subst a
        rw [Memory.read_entry_other hi v m, Memory.read_cons, if_neg (fun h => hi h.symm)]
      · rw [Memory.read_cons, Memory.read_cons, ih]

/-- Canonical memories that read alike are equal. -/
theorem Memory.ext_of_read : ∀ (m n : Memory) (lo : Nat), Memory.wfFrom lo m = true →
    Memory.wfFrom lo n = true → (∀ i, m.read i = n.read i) → m = n := by
  intro m
  induction m with
  | nil =>
    intro n lo _ hn h
    cases n with
    | nil => rfl
    | cons c n =>
      obtain ⟨k, x⟩ := c
      simp only [Memory.wfFrom, Bool.and_eq_true, bne_iff_ne, ne_eq] at hn
      have := h k
      rw [Memory.read_cons, if_pos rfl] at this
      exact absurd this.symm hn.1.2
  | cons c m ih =>
    obtain ⟨k, x⟩ := c
    intro n lo hm hn h
    simp only [Memory.wfFrom, Bool.and_eq_true, decide_eq_true_eq, bne_iff_ne, ne_eq] at hm
    cases n with
    | nil =>
      have := h k
      rw [Memory.read_cons, if_pos rfl] at this
      exact absurd this hm.1.2
    | cons d n =>
      obtain ⟨l, y⟩ := d
      simp only [Memory.wfFrom, Bool.and_eq_true, decide_eq_true_eq, bne_iff_ne, ne_eq] at hn
      have hkl : k = l := by
        rcases Nat.lt_trichotomy k l with hlt | heq | hgt
        · have := h k
          rw [Memory.read_cons, if_pos rfl, Memory.read_cons, if_neg (by omega),
            Memory.read_below n (l + 1) k hn.2 (by omega)] at this
          exact absurd this hm.1.2
        · exact heq
        · have := h l
          rw [Memory.read_cons, if_neg (by omega), Memory.read_below m (k + 1) l hm.2 (by omega),
            Memory.read_cons, if_pos rfl] at this
          exact absurd this.symm hn.1.2
      subst hkl
      have hxy : x = y := by
        have := h k
        rwa [Memory.read_cons, if_pos rfl, Memory.read_cons, if_pos rfl] at this
      subst hxy
      have : m = n := by
        apply ih n (k + 1) hm.2 hn.2
        intro i
        by_cases hi : k = i
        · subst hi
          rw [Memory.read_below m (k + 1) k hm.2 (by omega),
            Memory.read_below n (k + 1) k hn.2 (by omega)]
        · have := h i
          rwa [Memory.read_cons, if_neg hi, Memory.read_cons, if_neg hi] at this
      rw [this]

/-! ## Buffers -/

/-- Reading the byte just written to a canonical buffer (R10). -/
theorem State.byteAt_withByte_same {s : State} {b : Buf} (h : (s.memory b).wf = true) (i : Nat)
    (v : Byte) : (s.withByte b i v).byteAt b i = v := by
  cases b <;> exact Memory.read_write_same _ i v 0 h

/-- A write leaves every other byte of every buffer alone (R70, R73). -/
theorem State.byteAt_withByte_other {b c : Buf} {i j : Nat} (h : (b, i) ≠ (c, j)) (s : State)
    (v : Byte) : (s.withByte c j v).byteAt b i = s.byteAt b i := by
  cases b <;> cases c <;> first
    | rfl
    | exact Memory.read_write_other (fun e => h (by rw [e])) v _

/-- A write inside a buffer keeps every buffer canonical and in bounds. -/
theorem State.withByte_memory {s : State} {c : Buf} {j : Nat} (hj : j < c.size) (v : Byte)
    (h : ∀ b, (s.memory b).wf = true ∧ (s.memory b).below b.size = true) (b : Buf) :
    ((s.withByte c j v).memory b).wf = true ∧ ((s.withByte c j v).memory b).below b.size = true := by
  have hb := h b
  cases b <;> cases c <;> first
    | exact hb
    | exact ⟨Memory.wf_write hb.1 j v, Memory.below_write hj v _ hb.2⟩

/-- The buffers of the machine after reset are canonical. -/
theorem reset_memory_wf (b : Buf) : (State.reset.memory b).wf = true := by
  cases b <;> rfl

end Sys2Proof.Machine
end

