-- ==== Sys2Proof/Laws/Ops.lean ====
section
/-! SUPPORT. What each shared operation can do, said once: the answer of every operation as an equation, and what a
next state of it must be. -/

namespace Sys2Proof.Machine

/-! ## Sequencing -/

@[simp] theorem andThen_next (s : State) (k : State → Res) : andThen (.next s) k = k s := rfl
@[simp] theorem andThen_fault (f : Fault) (k : State → Res) : andThen (.fault f) k = .fault f := rfl
@[simp] theorem andThen_refused (q : Refusal) (k : State → Res) :
    andThen (.refused q) k = .refused q := rfl

/-- A sequence answers a next state only through a next state of its first part. -/
theorem andThen_eq_next {r : Res} {k : State → Res} {t : State} (h : andThen r k = .next t) :
    ∃ s, r = .next s ∧ k s = .next t := by
  cases r with
  | next s => exact ⟨s, rfl, h⟩
  | fault f => exact absurd h (by simp)
  | refused q => exact absurd h (by simp)

/-! ## Buffer access -/

/-- A read inside a buffer hands on the byte (R70). -/
theorem load_inside {b : Buf} {i : Nat} (h : i < b.size) (s : State) (k : Byte → Res) :
    load b i s k = k (s.byteAt b i) := by simp [load, h]

/-- A read answers a next state only inside the buffer. -/
theorem load_eq_next {b : Buf} {i : Nat} {s t : State} {k : Byte → Res}
    (h : load b i s k = .next t) : i < b.size ∧ k (s.byteAt b i) = .next t := by
  unfold load at h
  split at h
  · exact ⟨by assumption, h⟩
  · exact absurd h (by simp)

/-- A write inside a buffer changes that byte (R70). -/
theorem store_inside {b : Buf} {i : Nat} (h : i < b.size) (v : Byte) (s : State) :
    store b i v s = .next (s.withByte b i v) := by simp [store, h]

/-- A write answers a next state only inside the buffer. -/
theorem store_eq_next {b : Buf} {i : Nat} {v : Byte} {s t : State} (h : store b i v s = .next t) :
    i < b.size ∧ t = s.withByte b i v := by
  unfold store at h
  split at h
  · exact ⟨by assumption, (Host.Outcome.next.inj h).symm⟩
  · exact absurd h (by simp)

/-! ## The end of a command -/

theorem respond_eq (d : Data) (s : State) :
    respond d s = .next { s with resp := some (okWord d) } := rfl

theorem reject_eq (c : Cause) (s : State) :
    reject c s = .next { s with cmdErr := true, resp := some (rejWord c) } := rfl

/-- An accepted command's response word has `REJ = 0` (R101). -/
@[simp] theorem respRej_okWord (d : Data) : respRej (okWord d) = false := by
  simp [respRej, okWord]

/-- An accepted command's response word carries its `DATA` (R101). -/
@[simp] theorem respData_okWord (d : Data) : respData (okWord d) = d := by
  unfold respData okWord
  apply BitVec.eq_of_getLsbD_eq
  intro i hi
  simp [hi]
  omega

/-- A rejected command's response word has `REJ = 1` (R101). -/
@[simp] theorem respRej_rejWord (c : Cause) : respRej (rejWord c) = true := by
  cases c <;> decide

/-- A rejected command's response word carries its cause (R101, R271). -/
@[simp] theorem respCause_rejWord (c : Cause) : respCause (rejWord c) = c.code := by
  cases c <;> decide

/-- The response word of a command that returns nothing (R101). -/
theorem okWord_zero : okWord 0 = 0#32 := by decide

/-- The response word of a read is the value zero-extended (R101). -/
theorem okWord_setWidth {w : Nat} (x : BitVec w) (h : w ≤ 27) : okWord (x.setWidth 27) = x.setWidth 32 := by
  unfold okWord
  apply BitVec.eq_of_getLsbD_eq
  intro i hi
  simp only [BitVec.getLsbD_setWidth]
  by_cases h2 : i < 27
  · simp [h2]
  · have : x.getLsbD i = false := BitVec.getLsbD_of_ge _ _ (by omega)
    simp [this]

/-! ## Operand bounds (R73) -/

theorem slotInRange_iff (a : Half) (s : State) :
    slotInRange a s = true ↔ 1 ≤ a.toNat ∧ a.toNat ≤ s.slotCount.toNat := by simp [slotInRange]

theorem rxIndexInRange_iff (a : Half) : rxIndexInRange a = true ↔ a.toNat ≤ 512 := by
  unfold rxIndexInRange Config.slotsMax; exact decide_eq_true_iff

theorem pktOffsetInRange_iff (a : Half) : pktOffsetInRange a = true ↔ a.toNat < 256 := by
  unfold pktOffsetInRange Config.pktBufLen; exact decide_eq_true_iff

theorem uidIndexInRange_iff (a : Half) : uidIndexInRange a = true ↔ a.toNat ≤ 5 := by
  unfold uidIndexInRange; exact decide_eq_true_iff

theorem txBusy_iff (s : State) : s.txBusy = true ↔ s.txq ≠ [] := by simp [State.txBusy]

/-! ## The direction level (R169) -/

/-- `SetDir` writes the level and appends its symbols, nothing else (R169). -/
theorem setDir_eq_dirSyms (l : Bool) (s : State) :
    setDir l s = { s with dir := l, trace := s.trace ++ dirSyms l s } := by
  have h : (setDir l s).trace = s.trace ++ dirSyms l s := by
    rw [setDir_trace]; unfold dirSyms; split <;> simp
  apply State.ext <;> simp [h]

/-! ## Events -/

theorem deliver_enabled {e : Bool} (h : e = true) (arm : State → Res) (s : State) :
    deliver e arm s = arm s := by simp [deliver, h]

/-- An event that is not enabled changes nothing (R183). -/
theorem deliver_disabled {e : Bool} (h : e = false) (arm : State → Res) (s : State) :
    deliver e arm s = .next s := by simp [deliver, h]

/-- `TX_DONE` taken: `TXC <- 0`, then the arm (R183). -/
theorem exec_txDone_enabled {s : State} (hr : s.run = true) (he : s.ieTxDone = true) (hc : s.txc = true) :
    exec .txDone s = txDoneArm { s with txc := false } := by
  have : s.txDoneEnabled = true := by simp [State.txDoneEnabled, hr, he, hc]
  simp only [exec, execTxDone, deliver_enabled this]

/-- `TX_READY` taken (R183). -/
theorem exec_txReady_enabled {s : State} (hr : s.run = true) (he : s.ieTxRdy = true)
    (hq : s.txq.length < 2) : exec .txReady s = txReadyArm s := by
  have : s.txReadyEnabled = true := by simp [State.txReadyEnabled, hr, he, hq]
  simp only [exec, execTxReady, deliver_enabled this]

/-- `RX_BREAK` taken: the trace, then the dispatch (R183, R200). -/
theorem exec_rxBreak_enabled {s : State} (hr : s.run = true) (he : s.ieRx = true) :
    exec .rxBreak s = rxDispatch rxBreakWait rxBreakFrame (emit .rxBrk s) := by
  have : s.rxEnabled = true := by simp [State.rxEnabled, hr, he]
  simp only [exec, execRxBreak, deliver_enabled this]

/-- `RX_BYTE` taken: the trace, then the dispatch (R183, R200). -/
theorem exec_rxByte_enabled {s : State} (b : Byte) (hr : s.run = true) (he : s.ieRx = true) :
    exec (.rxByte b) s = rxDispatch (rxByteWait b) (rxByteFrame b) (emit (.rx b) s) := by
  have : s.rxEnabled = true := by simp [State.rxEnabled, hr, he]
  simp only [exec, execRxByte, deliver_enabled this]

/-- `TICK` taken (R183). -/
theorem exec_tick_enabled {s : State} (hr : s.run = true) : exec .tick s = tickArm s := by
  have : s.tickEnabled = true := hr
  simp only [exec, execTick, deliver_enabled this]

theorem rxDispatch_wait {wait frame : State → Res} {s : State} (h : s.txState = .txWaitResp) :
    rxDispatch wait frame s = wait s := if_pos h

theorem rxDispatch_frame {wait frame : State → Res} {s : State} (h : s.txState ≠ .txWaitResp)
    (hm : s.taskMode = .contRecv) : rxDispatch wait frame s = frame s := by
  rw [rxDispatch, if_neg h, if_pos hm]

theorem rxDispatch_other {wait frame : State → Res} {s : State} (h : s.txState ≠ .txWaitResp)
    (hm : s.taskMode ≠ .contRecv) : rxDispatch wait frame s = .next s := by
  rw [rxDispatch, if_neg h, if_neg hm]

theorem txDoneArm_idle {s : State} (h : s.txState = .txIdle) : txDoneArm s = txDoneIdle s := by
  unfold txDoneArm; rw [h]

theorem txDoneArm_break {s : State} (h : s.txState = .txBreak) : txDoneArm s = txDoneBreak s := by
  unfold txDoneArm; rw [h]

theorem txDoneArm_pktBreak {s : State} (h : s.txState = .txPktBreak) :
    txDoneArm s = txDonePktBreak s := by
  unfold txDoneArm; rw [h]

theorem txDoneArm_pktLast {s : State} (h : s.txState = .txPktLast) : txDoneArm s = txDonePktLast s := by
  unfold txDoneArm; rw [h]

theorem txReadyArm_pktData {s : State} (h : s.txState = .txPktData) :
    txReadyArm s = txReadyPktData s := by
  unfold txReadyArm; rw [h]

/-- `TX_READY` in `TX_START` and in `TX_DATA` is the same code (R186, R187). -/
theorem txReadyArm_slot {s : State} (h : s.txState = .txStart ∨ s.txState = .txData) :
    txReadyArm s = nextSlot { s with txState := .txData } := by
  rcases h with h | h
  · unfold txReadyArm; rw [h]; rfl
  · have e : { s with txState := .txData } = s := by rw [← h]
    rw [e]; unfold txReadyArm; rw [h]; rfl

/-! ## Handing over a byte and the frame boundary -/

/-- With room in `TXQ` the byte joins it at the current baud (R181). -/
theorem uartPut_room {s : State} (h : s.txq.length < Config.txqDepth) (b : Byte) :
    uartPut b s = .next { s with txq := s.txq ++ [⟨b, s.baudSel⟩], txc := false } := by
  rw [uartPut, if_pos h]

/-- A byte is handed over only with room in `TXQ` (R181). -/
theorem uartPut_eq_next {b : Byte} {s t : State} (h : uartPut b s = .next t) :
    s.txq.length < Config.txqDepth ∧
      t = { s with txq := s.txq ++ [⟨b, s.baudSel⟩], txc := false } := by
  unfold uartPut at h
  split at h
  · exact ⟨by assumption, (Host.Outcome.next.inj h).symm⟩
  · exact absurd h (by simp)

/-- The frame boundary in continuous send: the break of the next frame (R180, first arm). -/
theorem frameBoundary_contSend {s : State} (hm : s.taskMode = .contSend)
    (hq : s.txq.length < Config.txqDepth) :
    frameBoundary s = .next { s with
      ieTxRdy := false, dir := true, trace := (setDir true s).trace, baudSel := .brk,
      txq := s.txq ++ [⟨0x00#8, .brk⟩], txc := false, txState := .txBreak, ieTxDone := true } := by
  unfold frameBoundary putBreak
  rw [hm]
  dsimp only
  rw [uartPut_room (by simpa using hq), andThen_next]
  refine congrArg _ ?_
  apply State.ext <;> simp [setDir_trace]

/-- The frame boundary in a transaction: the break that precedes the packet (R180, second arm). -/
theorem frameBoundary_active {s : State} (hm : s.txnActive = true)
    (hq : s.txq.length < Config.txqDepth) :
    frameBoundary s = .next { s with
      ieTxRdy := false, frameSent := false, dir := true, trace := (setDir true s).trace,
      baudSel := .brk, txq := s.txq ++ [⟨0x00#8, .brk⟩], txc := false, txState := .txPktBreak,
      ieTxDone := true } := by
  have hm' : s.taskMode = .sendTxn ∨ s.taskMode = .sendTxnResume := by
    unfold State.txnActive at hm
    split at hm <;> simp_all
  unfold frameBoundary putBreak
  rcases hm' with h | h
  all_goals
    rw [h]
    dsimp only
    rw [uartPut_room (by simpa using hq), andThen_next]
    refine congrArg _ ?_
    apply State.ext <;> simp [setDir_trace]

/-! ## The four checks of a response (R224) -/

theorem lengthOk_iff (s : State) :
    lengthOk s = true ↔
      24 ≤ (s.byteAt .rxPkt 2).toNat ∧ s.rxIdx.toNat = (s.byteAt .rxPkt 2).toNat + 1
        ∧ (s.byteAt .rxPkt 23).toNat + 24 = (s.byteAt .rxPkt 2).toNat := by
  unfold lengthOk
  rw [Bool.and_eq_true, Bool.and_eq_true, decide_eq_true_iff, decide_eq_true_iff, decide_eq_true_iff,
    and_assoc]
  exact Iff.rfl

theorem checksumOk_iff (s : State) :
    checksumOk s = true ↔
      checksum (s.bytesAt .rxPkt 0 (s.byteAt .rxPkt 2).toNat)
        = s.memRead .rxPkt (s.byteAt .rxPkt 2).toNat 1 := by
  unfold checksumOk; exact decide_eq_true_iff

theorem counterOk_iff (s : State) :
    counterOk s = true ↔ s.byteAt .rxPkt 15 = s.byteAt .txPkt 15 := by
  unfold counterOk; exact decide_eq_true_iff

theorem destOk_iff (s : State) :
    destOk s = true ↔ s.memRead .rxPkt 3 6 = s.memRead .txPkt 9 6 := by
  unfold destOk; exact decide_eq_true_iff

/-! ## Resolve -/

/-- `Resolve` with frames to resume: the outcome, the line taken back, the next frame's break (R225). -/
theorem resolve_resume {s : State} (v : Verdict) (hi : s.rxIdx.toNat < 512)
    (hm : s.taskMode = .sendTxnResume) (hq : s.txq.length < Config.txqDepth) :
    resolve v s = .next { recordOutcome v (BitVec.ofNat 9 s.rxIdx.toNat) s with
      taskMode := .contSend, dir := true,
      trace := (setDir true (recordOutcome v (BitVec.ofNat 9 s.rxIdx.toNat) s)).trace,
      ieTxRdy := false, baudSel := .brk, txq := s.txq ++ [⟨0x00#8, .brk⟩], txc := false,
      txState := .txBreak, ieTxDone := true } := by
  rw [resolve, if_pos hi, handBack, if_pos (by simpa using hm),
    frameBoundary_contSend rfl (by simpa using hq)]
  refine congrArg _ ?_
  apply State.ext <;> simp [setDir_trace]

/-- `Resolve` without: the outcome, the line taken back, quiescence (R225). -/
theorem resolve_quiet {s : State} (v : Verdict) (hi : s.rxIdx.toNat < 512)
    (hm : s.taskMode ≠ .sendTxnResume) :
    resolve v s = .next { recordOutcome v (BitVec.ofNat 9 s.rxIdx.toNat) s with
      taskMode := .contSend, dir := true,
      trace := (setDir true (recordOutcome v (BitVec.ofNat 9 s.rxIdx.toNat) s)).trace,
      ieTxRdy := false, txState := .txIdle, ieTxDone := false } := by
  rw [resolve, if_pos hi, handBack, if_neg (by simpa using hm)]
  refine congrArg _ ?_
  apply State.ext <;> simp

/-! ## Steps -/

/-- A step on a scheduled input (R7, R171). -/
theorem step_cons {s : State} {x : Input} {rest : List Input} (h : s.schedule = x :: rest) :
    step s = runInput x { s with schedule := rest } := by
  simp [step, fetch, h]

/-- With nothing scheduled a step changes nothing (log 2). -/
theorem step_nil {s : State} (h : s.schedule = []) : step s = .next s := by
  simp [step, fetch, h]

/-- An input that decodes runs its instruction (R171). -/
theorem runInput_ok {x : Input} {i : Instr} (h : decode x = .ok i) (s : State) :
    runInput x s = exec i s := by simp [runInput, h]

/-- The bounds of the OPEN floor on the slot count (R6). -/
theorem slotsMin_bounds : 1 ≤ Config.slotsMin ∧ Config.slotsMin ≤ 512 := by
  unfold Config.slotsMin
  have := Config.slotsMinLessOne.isLt
  omega

/-- The bounds of the OPEN timeouts (R6). -/
theorem waitTicks_bounds (k : RespKind) : 1 ≤ waitTicks k ∧ waitTicks k ≤ 65535 := by
  cases k with
  | addressed =>
    have := Config.txnTimeoutLessOne.isLt
    simp only [waitTicks, Config.txnTimeout]; omega
  | discovery =>
    have := Config.discTimeoutLessOne.isLt
    simp only [waitTicks, Config.discTimeout]; omega

/-- The bounds of the OPEN length of a discovery reply (R6). -/
theorem discRespMax_bounds : 1 ≤ Config.discRespMax ∧ Config.discRespMax ≤ Config.pktBufLen := by
  unfold Config.discRespMax
  have := Config.discRespMaxLessOne.isLt
  simp only [Config.pktBufLen, Config.cksumLen] at this ⊢
  omega

/-- The count `SETCOUNT` takes lies in its range (R143). -/
theorem clampCount_bounds (n : Nat) :
    Config.slotsMin ≤ clampCount n ∧ clampCount n ≤ Config.slotsMax := by
  have := slotsMin_bounds
  unfold clampCount clampCountFrom
  simp only [Config.slotsMax]
  split <;> split <;> omega

end Sys2Proof.Machine
end

