-- ==== Sys2Proof/Laws/Arms.lean ====
section
/-! SUPPORT. What the receive arms do, one lemma per arm: storing a slot, ending a frame, storing a response byte. -/

namespace Sys2Proof.Machine

/-! ## Continuous receive (R201 to R206) -/

theorem rxByteFrame_idle {s : State} (b : Byte) (h : s.rxState = .rxIdle) : rxByteFrame b s = .next s := by
  unfold rxByteFrame; rw [h]

/-- The start code (R205). -/
theorem rxByteFrame_start {s : State} (b : Byte) (h : s.rxState = .rxStart) :
    rxByteFrame b s =
      .next { s with rxFrame := s.rxFrame.write 0 b, rxIdx := 1#10, rxState := .rxReceiving } := by
  unfold rxByteFrame; rw [h]; rfl

/-- A slot (R206). -/
theorem rxByteFrame_slot {s : State} (b : Byte) (h : s.rxState = .rxReceiving)
    (hi : s.rxIdx.toNat ≤ 512) :
    rxByteFrame b s =
      .next { s with rxFrame := s.rxFrame.write s.rxIdx.toNat b, rxIdx := s.rxIdx + 1#10 } := by
  have e : rxByteFrame b s = .next (rxByteSlot b s) := by unfold rxByteFrame; rw [h]
  rw [e, rxByteSlot, if_pos (show s.rxIdx.toNat ≤ Config.slotsMax from hi)]; rfl

/-- A slot beyond the buffer is dropped (R206). -/
theorem rxByteFrame_full {s : State} (b : Byte) (h : s.rxState = .rxReceiving)
    (hi : ¬s.rxIdx.toNat ≤ 512) : rxByteFrame b s = .next s := by
  have e : rxByteFrame b s = .next (rxByteSlot b s) := by unfold rxByteFrame; rw [h]
  rw [e, rxByteSlot, if_neg (show ¬s.rxIdx.toNat ≤ Config.slotsMax from hi)]

/-- A break outside a frame (R201, R202). -/
theorem rxBreakFrame_outside {s : State} (h : s.rxState ≠ .rxReceiving) :
    rxBreakFrame s = .next { s with rxState := .rxStart, rxIdx := 0#10 } := by
  unfold rxBreakFrame; split <;> first | rfl | contradiction

/-- The break that ends a frame (R203). -/
theorem rxBreakFrame_report {s : State} (h : s.rxState = .rxReceiving) (hi : s.rxIdx ≠ 0#10) :
    rxBreakFrame s =
      .next { reportFrame (s.rxIdx - 1#10) s with rxState := .rxStart, rxIdx := 0#10 } := by
  unfold rxBreakFrame; rw [h]; dsimp only; rw [if_neg hi]

/-- The report of a frame (R203, R278). -/
theorem reportFrame_eq (n : BitVec 10) (s : State) :
    reportFrame n s = { s with
      rxLen := n, frameRcvd := true,
      trace := s.trace ++ (if s.hookFrameEn then [.notify .frame n.toNat] else []) } := by
  unfold reportFrame
  split
  · rfl
  · rw [List.append_nil]

/-! ## Waiting for a response (R220) -/

theorem storeResponseByte_room {s : State} (b : Byte) (h : s.rxIdx.toNat < 256) :
    storeResponseByte b s = { s with
      rxPkt := s.rxPkt.write s.rxIdx.toNat b, rxAny := true, rxIdx := s.rxIdx + 1#10,
      rxState := .rxReceiving } := by
  unfold storeResponseByte; rw [if_pos (show s.rxIdx.toNat < Config.pktBufLen from h)]; rfl

theorem storeResponseByte_full {s : State} (b : Byte) (h : ¬s.rxIdx.toNat < 256) :
    storeResponseByte b s = { s with rxAny := true, rxState := .rxReceiving } := by
  unfold storeResponseByte; rw [if_neg (show ¬s.rxIdx.toNat < Config.pktBufLen from h)]

theorem responseComplete_iff (s : State) :
    responseComplete s = true ↔
      2 < s.rxIdx.toNat ∧ (s.byteAt .rxPkt 2).toNat + 1 ≤ s.rxIdx.toNat := by
  unfold responseComplete
  rw [Bool.and_eq_true, decide_eq_true_iff, decide_eq_true_iff]
  exact Iff.rfl

end Sys2Proof.Machine
end

