-- ==== Sys2Proof/Laws/Effects.lean ====
section
/-! SUPPORT. What an instruction can do in a state of the invariant, said once: one constructor per outcome, and the
lemma that there is no other. -/

namespace Sys2Proof.Machine

/-- The commands that only answer (R74). -/
def isRead : Instr → Bool
  | .getslot _ | .rxslot _ | .getcount | .rdrxlen | .pktrd _ | .rdpktlen | .rddisc _ | .rdstatus => true
  | _ => false

/-- The events that can resolve a transaction (R225). -/
def mayResolve : Instr → Bool
  | .rxByte _ | .tick => true
  | _ => false

/-- `s` with what the receive events and the timer may write while a response is waited for (R219 to R222, R226). -/
def waitUpdate (s : State) (pkt : Memory) (any : Bool) (idx : BitVec 10) (rx : RxState) (cnt : BitVec 16)
    (uid : Uid) (tr : List Sym) : State :=
  { s with rxPkt := pkt, rxAny := any, rxIdx := idx, rxState := rx, toCnt := cnt, discUid := uid, trace := tr }

/-- The outcomes of an instruction run in `s`. -/
inductive Effect (s : State) : Instr → State → Prop where
  | reject (i : Instr) (c : Cause) (hi : isCommand i = true) :
      Effect s i { s with cmdErr := true, resp := some (rejWord c) }
  | read (i : Instr) (d : Data) (hi : isRead i = true) : Effect s i { s with resp := some (okWord d) }
  | setslot (a : Half) (v : Byte) (h1 : 1 ≤ a.toNat) (h2 : a.toNat ≤ s.slotCount.toNat) :
      Effect s (.setslot a v)
        { s with txFrame := s.txFrame.write a.toNat v, resp := some (okWord 0) }
  | setcount (a : Half) :
      Effect s (.setcount a)
        { s with
          slotCount := BitVec.ofNat 10 (clampCount a.toNat)
          resp := some (okWord (BitVec.ofNat 27 (clampCount a.toNat))) }
  | pktwr (a : Half) (v : Byte) (ha : s.txnActive = false) (h : a.toNat < 256) :
      Effect s (.pktwr a v) { s with txPkt := s.txPkt.write a.toNat v, resp := some (okWord 0) }
  | startout (ha : s.txnActive = false) (hq : s.run = true → s.quiescent = true) (hx : s.txq = []) :
      Effect s .startout
        { s with
          taskMode := .contSend, run := true, ieRx := false, rxState := .rxIdle, ieTxRdy := false,
          dir := true, trace := s.trace ++ dirSyms true s, baudSel := .brk, txq := [⟨0x00#8, .brk⟩],
          txc := false, txState := .txBreak, ieTxDone := true, resp := some (okWord 0) }
  | startin (ha : s.txnActive = false) (hq : s.run = true → s.quiescent = true) (hx : s.txq = []) :
      Effect s .startin
        { s with
          taskMode := .contRecv, run := true, dir := false, trace := s.trace ++ dirSyms false s,
          ieTxRdy := false, ieTxDone := false, txState := .txIdle, rxState := .rxIdle, rxIdx := 0,
          ieRx := true, resp := some (okWord 0) }
  | stop (ha : s.txnActive = false) :
      Effect s .stop
        { s with
          run := false, ieTxRdy := false, ieTxDone := false, ieRx := false, txState := .txIdle,
          rxState := .rxIdle, resp := some (okWord 0) }
  | setdirpin (a : Half) (l : List Sym) (hl : l = [] ∨ l = [.dir s.dir]) :
      Effect s (.setdirpin a) { s with dirPin := a, trace := s.trace ++ l, resp := some (okWord 0) }
  | hookFrame (a : Half) (f : Byte) :
      Effect s (.sethook a f) { s with hookFrameEn := flagBit f 0, resp := some (okWord 0) }
  | hookTxn (a : Half) (f : Byte) :
      Effect s (.sethook a f) { s with hookTxnEn := flagBit f 0, resp := some (okWord 0) }
  | nexttn :
      Effect s .nexttn { s with tn := s.tn + 1#8, resp := some (okWord (s.tn.setWidth 27)) }
  | sendtxnNow (f : Byte) (hr : s.run = true) (ha : s.txnActive = false) (hm : s.taskMode = .contSend)
      (hl : 24 ≤ (s.byteAt .txPkt 2).toNat) (hq : s.quiescent = true) (hx : s.txq = []) :
      Effect s (.sendtxn f)
        { sendtxnAccepted f s with
          ieTxRdy := false, frameSent := false, dir := true, trace := s.trace ++ dirSyms true s,
          baudSel := .brk, txq := [⟨0x00#8, .brk⟩], txc := false, txState := .txPktBreak,
          ieTxDone := true, resp := some (okWord 0) }
  | sendtxnLater (f : Byte) (hr : s.run = true) (ha : s.txnActive = false) (hm : s.taskMode = .contSend)
      (hl : 24 ≤ (s.byteAt .txPkt 2).toNat) (hq : s.quiescent = false) :
      Effect s (.sendtxn f) { sendtxnAccepted f s with resp := some (okWord 0) }
  | clrflag (m : Byte) :
      Effect s (.clrflag m)
        { s with
          frameRcvd := s.frameRcvd && !flagBit m 0, txnRcvd := s.txnRcvd && !flagBit m 1,
          cmdErr := s.cmdErr && !flagBit m 2, resp := some (okWord 0) }
  | txReadyOff (h : s.txReadyEnabled = false) : Effect s .txReady s
  | slotMore (he : s.txReadyEnabled = true) (hs : s.txState = .txStart ∨ s.txState = .txData)
      (hi : s.txIdx.toNat < s.slotCount.toNat) :
      Effect s .txReady
        { s with
          txq := s.txq ++ [⟨s.byteAt .txFrame s.txIdx.toNat, s.baudSel⟩], txc := false,
          txIdx := s.txIdx + 1#10, txState := .txData }
  | slotLast (he : s.txReadyEnabled = true) (hs : s.txState = .txStart ∨ s.txState = .txData)
      (hi : s.txIdx.toNat = s.slotCount.toNat) :
      Effect s .txReady
        { s with
          txq := s.txq ++ [⟨s.byteAt .txFrame s.txIdx.toNat, s.baudSel⟩], txc := false,
          txIdx := s.txIdx + 1#10, txState := .txIdle, ieTxRdy := false, ieTxDone := true }
  | slotNone (he : s.txReadyEnabled = true) (hs : s.txState = .txData)
      (hi : s.slotCount.toNat < s.txIdx.toNat) :
      Effect s .txReady { s with txState := .txIdle, ieTxRdy := false, ieTxDone := true }
  | pktMore (he : s.txReadyEnabled = true) (hs : s.txState = .txPktData)
      (hi : s.txIdx.toNat + 1 < s.txPktLen.toNat) :
      Effect s .txReady
        { s with
          txq := s.txq ++ [⟨s.byteAt .txPkt s.txIdx.toNat, s.baudSel⟩], txc := false,
          txIdx := s.txIdx + 1#10 }
  | pktLast (he : s.txReadyEnabled = true) (hs : s.txState = .txPktData)
      (hi : s.txIdx.toNat + 1 = s.txPktLen.toNat) :
      Effect s .txReady
        { s with
          txq := s.txq ++ [⟨s.byteAt .txPkt s.txIdx.toNat, s.baudSel⟩], txc := false,
          txIdx := s.txIdx + 1#10, txState := .txPktLast, ieTxRdy := false, ieTxDone := true }
  | txDoneOff (h : s.txDoneEnabled = false) : Effect s .txDone s
  | frameEnd (he : s.txDoneEnabled = true) (hs : s.txState = .txIdle) (hm : s.taskMode = .contSend)
      (hx : s.txq = []) :
      Effect s .txDone
        { s with
          frameSent := true, ieTxRdy := false, dir := true, trace := s.trace ++ dirSyms true s,
          baudSel := .brk, txq := [⟨0x00#8, .brk⟩], txc := false, txState := .txBreak, ieTxDone := true }
  | packetStart (he : s.txDoneEnabled = true) (hs : s.txState = .txIdle) (ha : s.txnActive = true)
      (hx : s.txq = []) :
      Effect s .txDone
        { s with
          frameSent := false, ieTxRdy := false, dir := true, trace := s.trace ++ dirSyms true s,
          baudSel := .brk, txq := [⟨0x00#8, .brk⟩], txc := false, txState := .txPktBreak,
          ieTxDone := true }
  | startCode (he : s.txDoneEnabled = true) (hs : s.txState = .txBreak) (hx : s.txq = []) :
      Effect s .txDone
        { s with
          baudSel := .data, txq := [⟨s.byteAt .txFrame 0, .data⟩], txc := false, txIdx := 1#10,
          txState := .txStart, ieTxDone := false, ieTxRdy := true }
  | packetFirst (he : s.txDoneEnabled = true) (hs : s.txState = .txPktBreak) (hx : s.txq = []) :
      Effect s .txDone
        { s with
          baudSel := .data, txPktLen := BitVec.ofNat 9 ((s.byteAt .txPkt 2).toNat + 1),
          txq := [⟨s.byteAt .txPkt 0, .data⟩], txc := false, txIdx := 1#10, txState := .txPktData,
          ieTxDone := false, ieTxRdy := true }
  | turnaround (he : s.txDoneEnabled = true) (hs : s.txState = .txPktLast) :
      Effect s .txDone
        { s with
          txc := false, dir := false, trace := s.trace ++ dirSyms false s, ieTxDone := false,
          rxIdx := 0, rxAny := false, rxState := .rxIdle,
          toCnt := BitVec.ofNat 16 (waitTicks s.respKind), ieRx := true, txState := .txWaitResp }
  | rxByteOff (b : Byte) (h : s.rxEnabled = false) : Effect s (.rxByte b) s
  | rxBreakOff (h : s.rxEnabled = false) : Effect s .rxBreak s
  | rxByteIdle (b : Byte) (hm : s.taskMode = .contRecv) (hr : s.rxState = .rxIdle) :
      Effect s (.rxByte b) { s with trace := s.trace ++ [.rx b] }
  | rxByteStart (b : Byte) (hm : s.taskMode = .contRecv) (hr : s.rxState = .rxStart) :
      Effect s (.rxByte b)
        { s with
          trace := s.trace ++ [.rx b], rxFrame := s.rxFrame.write 0 b, rxIdx := 1#10,
          rxState := .rxReceiving }
  | rxByteSlot (b : Byte) (hm : s.taskMode = .contRecv) (hr : s.rxState = .rxReceiving)
      (hi : s.rxIdx.toNat ≤ 512) :
      Effect s (.rxByte b)
        { s with
          trace := s.trace ++ [.rx b], rxFrame := s.rxFrame.write s.rxIdx.toNat b,
          rxIdx := s.rxIdx + 1#10 }
  | rxByteFull (b : Byte) (hm : s.taskMode = .contRecv) (hr : s.rxState = .rxReceiving)
      (hi : ¬s.rxIdx.toNat ≤ 512) :
      Effect s (.rxByte b) { s with trace := s.trace ++ [.rx b] }
  | rxBreakOutside (hm : s.taskMode = .contRecv) (hr : s.rxState ≠ .rxReceiving) :
      Effect s .rxBreak { s with trace := s.trace ++ [.rxBrk], rxState := .rxStart, rxIdx := 0 }
  | rxBreakReport (hm : s.taskMode = .contRecv) (hr : s.rxState = .rxReceiving) :
      Effect s .rxBreak
        { s with
          rxLen := s.rxIdx - 1#10, frameRcvd := true,
          trace := s.trace ++ [.rxBrk]
            ++ (if s.hookFrameEn then [.notify .frame (s.rxIdx - 1#10).toNat] else []),
          rxState := .rxStart, rxIdx := 0 }
  | waitRoom (b : Byte) (hw : s.txState = .txWaitResp) (hi : s.rxIdx.toNat < 256) :
      Effect s (.rxByte b)
        (waitUpdate s (s.rxPkt.write s.rxIdx.toNat b) true (s.rxIdx + 1#10) .rxReceiving s.toCnt s.discUid
          (s.trace ++ [.rx b]))
  | waitFull (b : Byte) (hw : s.txState = .txWaitResp) (hi : ¬s.rxIdx.toNat < 256) :
      Effect s (.rxByte b)
        (waitUpdate s s.rxPkt true s.rxIdx .rxReceiving s.toCnt s.discUid (s.trace ++ [.rx b]))
  | waitBreakAddressed (hw : s.txState = .txWaitResp) (hk : s.respKind = .addressed) :
      Effect s .rxBreak
        (waitUpdate s s.rxPkt true 0 .rxStart s.toCnt s.discUid (s.trace ++ [.rxBrk]))
  | waitBreakDiscovery (hw : s.txState = .txWaitResp) (hk : s.respKind = .discovery) :
      Effect s .rxBreak
        (waitUpdate s s.rxPkt true s.rxIdx s.rxState s.toCnt s.discUid (s.trace ++ [.rxBrk]))
  | tickOff (h : s.run = false) : Effect s .tick s
  | tickIdle (h : s.txState ≠ .txWaitResp) : Effect s .tick s
  | waitTick (hw : s.txState = .txWaitResp) (hc : 1 < s.toCnt.toNat) :
      Effect s .tick { s with toCnt := s.toCnt - 1#16 }
  | resolvedResume (i : Instr) (u : State) (pkt : Memory) (any : Bool) (idx : BitVec 10) (rx : RxState)
      (cnt : BitVec 16) (uid : Uid) (tr tr' : List Sym) (v : Verdict) (rcvd : Bool)
      (hi : mayResolve i = true) (hw : s.txState = .txWaitResp) (hm : s.taskMode = .sendTxnResume)
      (hv : v.result ≠ .pending) (hu : u = waitUpdate s pkt any idx rx cnt uid tr)
      (hp : ∀ k, (∀ b, i = .rxByte b → k ≠ s.rxIdx.toNat) → pkt.read k = s.rxPkt.read k)
      (htr : ∃ l, tr' = s.trace ++ l ∧ ∀ y ∈ l, Sym.transmitted y = false) :
      Effect s i
        { u with
          result := v.result, malfCause := v.cause, rxPktLen := BitVec.ofNat 9 idx.toNat, ieRx := false,
          rxState := .rxIdle, txnRcvd := rcvd, taskMode := .contSend, dir := true, trace := tr',
          ieTxRdy := false, baudSel := .brk, txq := [⟨0x00#8, .brk⟩], txc := false,
          txState := .txBreak, ieTxDone := true }
  | resolvedQuiet (i : Instr) (u : State) (pkt : Memory) (any : Bool) (idx : BitVec 10) (rx : RxState)
      (cnt : BitVec 16) (uid : Uid) (tr tr' : List Sym) (v : Verdict) (rcvd : Bool)
      (hi : mayResolve i = true) (hw : s.txState = .txWaitResp) (hm : s.taskMode ≠ .sendTxnResume)
      (hv : v.result ≠ .pending) (hu : u = waitUpdate s pkt any idx rx cnt uid tr)
      (hp : ∀ k, (∀ b, i = .rxByte b → k ≠ s.rxIdx.toNat) → pkt.read k = s.rxPkt.read k)
      (htr : ∃ l, tr' = s.trace ++ l ∧ ∀ y ∈ l, Sym.transmitted y = false) :
      Effect s i
        { u with
          result := v.result, malfCause := v.cause, rxPktLen := BitVec.ofNat 9 idx.toNat, ieRx := false,
          rxState := .rxIdle, txnRcvd := rcvd, taskMode := .contSend, dir := true, trace := tr',
          ieTxRdy := false, txState := .txIdle, ieTxDone := false }
  | shiftNone (hx : s.txq = []) : Effect s .shiftout s
  | shift (p : TxPair) (rest : List TxPair) (hx : s.txq = p :: rest) :
      Effect s .shiftout
        { s with txq := rest, txc := s.txc || rest.isEmpty, trace := s.trace ++ [p.sym] }

/-! ## There is no other outcome -/

theorem effect_reject {s t : State} {i : Instr} {c : Cause} (hi : isCommand i = true)
    (h : reject c s = .next t) : Effect s i t := by
  cases h; exact .reject i c hi

theorem effect_respond {s u t : State} {i : Instr} {d : Data} (h : respond d u = .next t)
    (e : Effect s i { u with resp := some (okWord d) }) : Effect s i t := by
  cases h; exact e

theorem effect_startable {s t : State} {i : Instr} {k : Res} (hi : isCommand i = true)
    (h : whenStartable s k = .next t)
    (e : s.txnActive = false → (s.run = true → s.quiescent = true) → s.txq = [] → k = .next t →
      Effect s i t) : Effect s i t := by
  unfold whenStartable at h
  split at h
  · exact effect_reject hi h
  · split at h
    · exact effect_reject hi h
    · split at h
      · exact effect_reject hi h
      · rename_i h1 h2 h3
        refine e (by simpa using h1) (fun hr => by simpa [hr] using h2) ?_ h
        by_contra hx
        exact h3 ((txBusy_iff s).2 hx)

theorem dirSyms_quiet (l : Bool) (s : State) : ∀ y ∈ dirSyms l s, Sym.transmitted y = false := by
  unfold dirSyms
  split
  · simp
  · simp [Sym.transmitted]

/-- What `Resolve` leaves, from a state of the wait (R225). -/
theorem effect_resolve {s t : State} {i : Instr} {v : Verdict} (pkt : Memory) (any : Bool)
    (idx : BitVec 10) (rx : RxState) (cnt : BitVec 16) (uid : Uid) (tr : List Sym)
    (hi : mayResolve i = true) (hw : s.txState = .txWaitResp) (hx : s.txq = []) (hidx : idx.toNat < 512)
    (hv : v.result ≠ .pending)
    (hp : ∀ k, (∀ b, i = .rxByte b → k ≠ s.rxIdx.toNat) → pkt.read k = s.rxPkt.read k)
    (htr : ∃ l, tr = s.trace ++ l ∧ ∀ y ∈ l, Sym.transmitted y = false)
    (h : resolve v (waitUpdate s pkt any idx rx cnt uid tr) = .next t) : Effect s i t := by
  obtain ⟨l, rfl, hl⟩ := htr
  have key : ∃ l', (setDir true (recordOutcome v (BitVec.ofNat 9 idx.toNat)
      (waitUpdate s pkt any idx rx cnt uid (s.trace ++ l)))).trace = s.trace ++ l'
        ∧ ∀ y ∈ l', Sym.transmitted y = false := by
    obtain ⟨l₂, h2, hl2⟩ : ∃ l₂, (recordOutcome v (BitVec.ofNat 9 idx.toNat)
        (waitUpdate s pkt any idx rx cnt uid (s.trace ++ l))).trace = s.trace ++ (l ++ l₂)
          ∧ ∀ y ∈ l₂, Sym.transmitted y = false := by
      unfold recordOutcome
      dsimp only
      split
      · split
        · exact ⟨[.notify .txn idx.toNat], by simp [waitUpdate], by simp [Sym.transmitted]⟩
        · exact ⟨[], by simp [waitUpdate], by simp⟩
      · exact ⟨[], by simp [waitUpdate], by simp⟩
    generalize recordOutcome v (BitVec.ofNat 9 idx.toNat)
      (waitUpdate s pkt any idx rx cnt uid (s.trace ++ l)) = r at h2
    refine ⟨l ++ l₂ ++ dirSyms true r, by rw [setDir_eq_dirSyms]; simp [h2], fun y hy => ?_⟩
    rcases List.mem_append.1 hy with hy | hy
    · rcases List.mem_append.1 hy with hy | hy
      · exact hl y hy
      · exact hl2 y hy
    · exact dirSyms_quiet true r y hy
  by_cases hm : s.taskMode = .sendTxnResume
  · rw [resolve_resume (s := waitUpdate s pkt any idx rx cnt uid (s.trace ++ l)) v hidx hm
      (show s.txq.length < 2 by simp [hx])] at h
    cases h
    have e := Effect.resolvedResume (s := s) i _ pkt any idx rx cnt uid (s.trace ++ l) _ v
      (recordOutcome v (BitVec.ofNat 9 idx.toNat)
        (waitUpdate s pkt any idx rx cnt uid (s.trace ++ l))).txnRcvd hi hw hm hv rfl hp key
    convert e using 1
    apply State.ext <;> simp [waitUpdate, hx]
  · rw [resolve_quiet (s := waitUpdate s pkt any idx rx cnt uid (s.trace ++ l)) v hidx hm] at h
    cases h
    have e := Effect.resolvedQuiet (s := s) i _ pkt any idx rx cnt uid (s.trace ++ l) _ v
      (recordOutcome v (BitVec.ofNat 9 idx.toNat)
        (waitUpdate s pkt any idx rx cnt uid (s.trace ++ l))).txnRcvd hi hw hm hv rfl hp key
    convert e using 1
    apply State.ext <;> simp [waitUpdate]

theorem validate_settled (s : State) : (validate s).result ≠ .pending := by
  unfold validate verdictMalformed verdictValid
  split
  · simp
  split
  · simp
  split
  · simp
  split <;> simp

theorem effect_resolveDiscovery {s t : State} {i : Instr} (pkt : Memory) (any : Bool) (idx : BitVec 10)
    (rx : RxState) (cnt : BitVec 16) (tr : List Sym)
    (hi : mayResolve i = true) (hw : s.txState = .txWaitResp) (hx : s.txq = []) (hidx : idx.toNat < 512)
    (hp : ∀ k, (∀ b, i = .rxByte b → k ≠ s.rxIdx.toNat) → pkt.read k = s.rxPkt.read k)
    (htr : ∃ l, tr = s.trace ++ l ∧ ∀ y ∈ l, Sym.transmitted y = false)
    (h : resolveDiscovery (waitUpdate s pkt any idx rx cnt s.discUid tr) = .next t) : Effect s i t := by
  unfold resolveDiscovery at h
  split at h
  · exact effect_resolve pkt any idx rx cnt s.discUid tr hi hw hx hidx (by decide) hp htr h
  · split at h
    · split at h
      · rename_i u _
        exact effect_resolve pkt any idx rx cnt u tr hi hw hx hidx (by decide) hp htr h
      · exact effect_resolve pkt any idx rx cnt s.discUid tr hi hw hx hidx (by decide) hp htr h
    · cases h

theorem effect_txReady {s t : State} (hI : Inv s) (h : exec .txReady s = .next t) : Effect s .txReady t := by
  by_cases he : s.txReadyEnabled = true
  · have he' := he
    simp only [State.txReadyEnabled, Bool.and_eq_true, decide_eq_true_eq] at he'
    obtain ⟨⟨hrun, hie⟩, hd⟩ := he'
    have hd : s.txq.length < 2 := hd
    rw [exec_txReady_enabled hrun hie hd] at h
    have hemit := hI.ready hie
    have hi := hI.indices.1
    by_cases hs : s.txState = .txStart ∨ s.txState = .txData
    · rw [txReadyArm_slot hs] at h
      have hc : s.slotCount.toNat ≤ 512 := hI.slotCeiling
      unfold nextSlot at h
      split at h
      · rename_i hle
        have hle : s.txIdx.toNat ≤ s.slotCount.toNat := hle
        rw [load_inside (show s.txIdx.toNat < 513 by omega),
          uartPut_room (s := { s with txState := .txData }) hd, andThen_next] at h
        have e1 : (s.txIdx + 1#10).toNat = s.txIdx.toNat + 1 := by
          rw [BitVec.toNat_add]; simp; omega
        unfold endOfSlots at h
        dsimp only at h
        rw [e1] at h
        by_cases h6 : s.txIdx.toNat < s.slotCount.toNat
        · rw [if_neg (by omega)] at h; cases h; exact .slotMore he hs h6
        · rw [if_pos (by omega)] at h; cases h; exact .slotLast he hs (by omega)
      · rename_i hle
        have hle : ¬s.txIdx.toNat ≤ s.slotCount.toNat := hle
        unfold endOfSlots at h
        rw [if_pos (show s.slotCount.toNat < s.txIdx.toNat by omega)] at h
        have hdata : s.txState = .txData := by
          rcases hs with hs | hs
          · have h1 := hI.firstSlot hs
            have h2 := hI.slotFloor
            have h3 := slotsMin_bounds.1
            rw [h1] at hle
            simp at hle; omega
          · exact hs
        cases h; exact .slotNone he hdata (by omega)
    · have hp : s.txState = .txPktData := by
        cases hh : s.txState <;> simp_all [TxState.emitting]
      have hlt := hI.packetIndex hp
      have hlen : s.txPktLen.toNat ≤ 256 := hI.lengths.2.1
      have e1 : (s.txIdx + 1#10).toNat = s.txIdx.toNat + 1 := by
        rw [BitVec.toNat_add]; simp; omega
      rw [txReadyArm_pktData hp, txReadyPktData, load_inside (show s.txIdx.toNat < 256 by omega),
        uartPut_room (show s.txq.length < 2 from hd), andThen_next] at h
      dsimp only at h
      rw [e1] at h
      split at h
      · cases h; exact .pktLast he hp (by omega)
      · cases h; exact .pktMore he hp (by omega)
  · have he : s.txReadyEnabled = false := by simpa using he
    simp only [exec, execTxReady, deliver_disabled he] at h
    cases h; exact .txReadyOff he

theorem effect_txDone {s t : State} (hI : Inv s) (h : exec .txDone s = .next t) : Effect s .txDone t := by
  by_cases he : s.txDoneEnabled = true
  · have he' := he
    simp only [State.txDoneEnabled, Bool.and_eq_true] at he'
    obtain ⟨⟨hrun, hie⟩, hc⟩ := he'
    rw [exec_txDone_enabled hrun hie hc] at h
    have hx := hI.complete hc
    have hdr := hI.done hie
    have hroom : ({ s with txc := false } : State).txq.length < Config.txqDepth := by simp [hx]
    cases hs : s.txState with
    | txIdle =>
      rw [txDoneArm_idle (s := { s with txc := false }) hs, txDoneIdle] at h
      cases hm : s.taskMode with
      | contSend =>
        have e := frameBoundary_contSend (s := { s with txc := false, frameSent := true }) hm hroom
        rw [setDir_eq_dirSyms] at e
        have h2 := e.symm.trans h
        cases h2
        have k := Effect.frameEnd he hs hm hx
        convert k using 1
        apply State.ext <;> first | rfl | simp [hx]
      | contRecv => exact absurd hie (by simp [(hI.receiving hm).2.2.1])
      | sendTxn =>
        have ha : s.txnActive = true := by simp [State.txnActive, hm]
        have e := frameBoundary_active (s := { s with txc := false, frameSent := true }) ha hroom
        rw [setDir_eq_dirSyms] at e
        have h2 := e.symm.trans h
        cases h2
        have k := Effect.packetStart he hs ha hx
        convert k using 1
        apply State.ext <;> first | rfl | simp [hx]
      | sendTxnResume =>
        have ha : s.txnActive = true := by simp [State.txnActive, hm]
        have e := frameBoundary_active (s := { s with txc := false, frameSent := true }) ha hroom
        rw [setDir_eq_dirSyms] at e
        have h2 := e.symm.trans h
        cases h2
        have k := Effect.packetStart he hs ha hx
        convert k using 1
        apply State.ext <;> first | rfl | simp [hx]
    | txBreak =>
      rw [txDoneArm_break (s := { s with txc := false }) hs, txDoneBreak,
        uartPut_room (s := { s with txc := false, baudSel := .data }) hroom, andThen_next] at h
      cases h
      have k := Effect.startCode he hs hx
      convert k using 1
      apply State.ext <;> first | rfl | (dsimp only; rw [hx]; rfl)
    | txPktBreak =>
      rw [txDoneArm_pktBreak (s := { s with txc := false }) hs, txDonePktBreak,
        uartPut_room (s := { s with
          txc := false, baudSel := .data,
          txPktLen := BitVec.ofNat 9
            ((({ s with txc := false } : State).byteAt .txPkt Config.mlOff).toNat + Config.cksumLen) })
          hroom,
        andThen_next] at h
      cases h
      have k := Effect.packetFirst he hs hx
      convert k using 1
      apply State.ext <;> first | rfl | (dsimp only; rw [hx]; rfl)
    | txPktLast =>
      rw [txDoneArm_pktLast (s := { s with txc := false }) hs, txDonePktLast, setDir_eq_dirSyms] at h
      cases h
      exact .turnaround he hs
    | txStart => simp [hs, TxState.draining] at hdr
    | txData => simp [hs, TxState.draining] at hdr
    | txPktData => simp [hs, TxState.draining] at hdr
    | txWaitResp => simp [hs, TxState.draining] at hdr
  · have he : s.txDoneEnabled = false := by simpa using he
    simp only [exec, execTxDone, deliver_disabled he] at h
    cases h; exact .txDoneOff he

theorem effect_rxByte {s t : State} (b : Byte) (hI : Inv s) (h : exec (.rxByte b) s = .next t) :
    Effect s (.rxByte b) t := by
  by_cases he : s.rxEnabled = true
  · have he' := he
    simp only [State.rxEnabled, Bool.and_eq_true] at he'
    obtain ⟨hrun, hie⟩ := he'
    rw [exec_rxByte_enabled b hrun hie] at h
    by_cases hw : s.txState = .txWaitResp
    · obtain ⟨_, _, hx, _, hidx⟩ := hI.waiting hw
      have hidx : s.rxIdx.toNat ≤ 256 := hidx
      rw [rxDispatch_wait (s := emit (.rx b) s) hw, rxByteWait, finishIfComplete] at h
      have htr : ∃ l, s.trace ++ [Sym.rx b] = s.trace ++ l ∧ ∀ y ∈ l, Sym.transmitted y = false :=
        ⟨_, rfl, by simp [Sym.transmitted]⟩
      by_cases hr : s.rxIdx.toNat < 256
      · have e := storeResponseByte_room (s := emit (.rx b) s) b hr
        have e2 : storeResponseByte b (emit (.rx b) s) =
            waitUpdate s (s.rxPkt.write s.rxIdx.toNat b) true (s.rxIdx + 1#10) .rxReceiving s.toCnt
              s.discUid (s.trace ++ [.rx b]) := e
        rw [e2] at h
        have hi1 : (s.rxIdx + 1#10).toNat < 512 := by rw [BitVec.toNat_add]; simp; omega
        have hp : ∀ k, (∀ c, Instr.rxByte b = .rxByte c → k ≠ s.rxIdx.toNat) →
            (s.rxPkt.write s.rxIdx.toNat b).read k = s.rxPkt.read k :=
          fun k hk => Memory.read_write_other (hk b rfl) b _
        split at h
        · split at h
          · exact effect_resolve _ _ _ _ _ _ _ rfl hw hx hi1 (validate_settled _) hp htr h
          · cases h; exact .waitRoom b hw hr
        · split at h
          · exact effect_resolveDiscovery _ _ _ _ _ _ rfl hw hx hi1 hp htr h
          · cases h; exact .waitRoom b hw hr
      · have e := storeResponseByte_full (s := emit (.rx b) s) b hr
        have e2 : storeResponseByte b (emit (.rx b) s) =
            waitUpdate s s.rxPkt true s.rxIdx .rxReceiving s.toCnt s.discUid (s.trace ++ [.rx b]) := e
        rw [e2] at h
        have hi1 : s.rxIdx.toNat < 512 := by omega
        split at h
        · split at h
          · exact effect_resolve _ _ _ _ _ _ _ rfl hw hx hi1 (validate_settled _) (fun _ _ => rfl) htr h
          · cases h; exact .waitFull b hw hr
        · split at h
          · exact effect_resolveDiscovery _ _ _ _ _ _ rfl hw hx hi1 (fun _ _ => rfl) htr h
          · cases h; exact .waitFull b hw hr
    · have hm : s.taskMode = .contRecv := (hI.listener hie).resolve_right hw
      rw [rxDispatch_frame (s := emit (.rx b) s) hw hm] at h
      by_cases ha : s.rxState = .rxStart
      · rw [rxByteFrame_start (s := emit (.rx b) s) b ha] at h
        cases h; exact .rxByteStart b hm ha
      · by_cases hb : s.rxState = .rxReceiving
        · by_cases h6 : s.rxIdx.toNat ≤ 512
          · rw [rxByteFrame_slot (s := emit (.rx b) s) b hb h6] at h
            cases h; exact .rxByteSlot b hm hb h6
          · rw [rxByteFrame_full (s := emit (.rx b) s) b hb h6] at h
            cases h; exact .rxByteFull b hm hb h6
        · have hc : s.rxState = .rxIdle := by cases h : s.rxState <;> simp_all
          rw [rxByteFrame_idle (s := emit (.rx b) s) b hc] at h
          cases h; exact .rxByteIdle b hm hc
  · have he : s.rxEnabled = false := by simpa using he
    simp only [exec, execRxByte, deliver_disabled he] at h
    cases h; exact .rxByteOff b he

theorem effect_rxBreak {s t : State} (hI : Inv s) (h : exec .rxBreak s = .next t) : Effect s .rxBreak t := by
  by_cases he : s.rxEnabled = true
  · have he' := he
    simp only [State.rxEnabled, Bool.and_eq_true] at he'
    obtain ⟨hrun, hie⟩ := he'
    rw [exec_rxBreak_enabled hrun hie] at h
    by_cases hw : s.txState = .txWaitResp
    · rw [rxDispatch_wait (s := emit .rxBrk s) hw, rxBreakWait] at h
      split at h
      · rename_i hk; cases h; exact .waitBreakAddressed hw hk
      · rename_i hk; cases h; exact .waitBreakDiscovery hw hk
    · have hm : s.taskMode = .contRecv := (hI.listener hie).resolve_right hw
      rw [rxDispatch_frame (s := emit .rxBrk s) hw hm] at h
      by_cases hr : s.rxState = .rxReceiving
      · rw [rxBreakFrame_report (s := emit .rxBrk s) hr (hI.startCode hm hr), reportFrame_eq] at h
        cases h; exact .rxBreakReport hm hr
      · rw [rxBreakFrame_outside (s := emit .rxBrk s) hr] at h
        cases h; exact .rxBreakOutside hm hr
  · have he : s.rxEnabled = false := by simpa using he
    simp only [exec, execRxBreak, deliver_disabled he] at h
    cases h; exact .rxBreakOff he

theorem effect_tick {s t : State} (hI : Inv s) (h : exec .tick s = .next t) : Effect s .tick t := by
  by_cases he : s.run = true
  · rw [exec_tick_enabled he, tickArm] at h
    split at h
    · rename_i hw
      obtain ⟨_, _, hx, hcnt, hidx⟩ := hI.waiting hw
      have hidx : s.rxIdx.toNat < 512 := by
        have : s.rxIdx.toNat ≤ 256 := hidx
        omega
      have htr : ∃ l, s.trace = s.trace ++ l ∧ ∀ y ∈ l, Sym.transmitted y = false :=
        ⟨[], by simp, by simp⟩
      rw [tickWait, if_neg hcnt] at h
      split at h
      · have e : { s with toCnt := 0#16 } =
            waitUpdate s s.rxPkt s.rxAny s.rxIdx s.rxState 0#16 s.discUid s.trace := rfl
        rw [e, timeout] at h
        split at h
        · exact effect_resolve _ _ _ _ _ _ _ rfl hw hx hidx (by decide) (fun _ _ => rfl) htr h
        · split at h
          · exact effect_resolveDiscovery _ _ _ _ _ _ rfl hw hx hidx (fun _ _ => rfl) htr h
          · exact effect_resolve _ _ _ _ _ _ _ rfl hw hx hidx (by decide) (fun _ _ => rfl) htr h
      · rename_i h1
        cases h
        refine .waitTick hw ?_
        have h0 : s.toCnt.toNat ≠ 0 := fun e => hcnt (BitVec.eq_of_toNat_eq (by simpa using e))
        have h2 : s.toCnt.toNat ≠ 1 := fun e => h1 (BitVec.eq_of_toNat_eq (by simpa using e))
        omega
    · rename_i hw; cases h; exact .tickIdle hw
  · have he : s.run = false := by simpa using he
    have he' : s.tickEnabled = false := he
    simp only [exec, execTick, deliver_disabled he'] at h
    cases h; exact .tickOff he

theorem effect_sendtxn {s t : State} (f : Byte) (hI : Inv s) (h : exec (.sendtxn f) s = .next t) :
    Effect s (.sendtxn f) t := by
  simp only [exec, execSendtxn] at h
  split at h
  · exact effect_reject rfl h
  rename_i hr
  split at h
  · exact effect_reject rfl h
  rename_i ha
  split at h
  · exact effect_reject rfl h
  rename_i hm
  split at h
  · exact effect_reject rfl h
  rename_i hl
  have hr : s.run = true := by simpa using hr
  have ha : s.txnActive = false := by simpa using ha
  have hm : s.taskMode = .contSend := by simpa using hm
  have hl : ¬(s.byteAt .txPkt 2).toNat < 24 := hl
  have hl : 24 ≤ (s.byteAt .txPkt 2).toNat := by omega
  split at h
  · rename_i hq
    have hx := hI.quiet hr hq
    rw [frameBoundary_active (by simp) (by simp [hx]), andThen_next, setDir_eq_dirSyms] at h
    cases h
    have k := Effect.sendtxnNow f hr ha hm hl hq hx
    convert k using 1
    apply State.ext <;> first | rfl | (dsimp only; rw [sendtxnAccepted_txq, hx]; rfl)
  · rename_i hq
    cases h
    exact .sendtxnLater f hr ha hm hl (by simpa using hq)

theorem effect_startout {s t : State} (h : exec .startout s = .next t) : Effect s .startout t := by
  refine effect_startable rfl h fun ha hq hx h => ?_
  rw [frameBoundary_contSend rfl (by simp [hx]), andThen_next, setDir_eq_dirSyms] at h
  cases h
  have k := Effect.startout ha hq hx
  convert k using 1
  apply State.ext <;> first | rfl | (dsimp only; rw [hx]; rfl)

theorem effect_startin {s t : State} (h : exec .startin s = .next t) : Effect s .startin t := by
  refine effect_startable rfl h fun ha hq hx h => ?_
  rw [setDir_eq_dirSyms] at h
  cases h
  exact .startin ha hq hx

/-- Every outcome of an instruction is one of the list. -/
theorem exec_effect {i : Instr} {s t : State} (hI : Inv s) (h : exec i s = .next t) : Effect s i t := by
  cases i with
  | setslot a v =>
    simp only [exec, execSetslot, slotInRange_iff] at h
    split at h
    · rename_i hr
      have : s.slotCount.toNat ≤ 512 := hI.slotCeiling
      rw [store_inside (show a.toNat < 513 by omega), andThen_next] at h
      cases h; exact .setslot a v hr.1 hr.2
    · exact effect_reject rfl h
  | getslot a =>
    simp only [exec, execGetslot] at h
    split at h
    · exact effect_respond (load_eq_next h).2 (.read _ _ rfl)
    · exact effect_reject rfl h
  | rxslot a =>
    simp only [exec, execRxslot] at h
    split at h
    · exact effect_respond (load_eq_next h).2 (.read _ _ rfl)
    · exact effect_reject rfl h
  | setcount a => exact effect_respond h (.setcount a)
  | getcount => exact effect_respond h (.read _ _ rfl)
  | rdrxlen => exact effect_respond h (.read _ _ rfl)
  | startout => exact effect_startout h
  | startin => exact effect_startin h
  | stop =>
    simp only [exec, execStop] at h
    split at h
    · exact effect_reject rfl h
    · rename_i ha; exact effect_respond h (.stop (by simpa using ha))
  | setdirpin a =>
    simp only [exec, execSetdirpin] at h
    split at h
    · cases h
      have k := Effect.setdirpin (s := s) a [] (.inl rfl)
      rw [List.append_nil] at k; exact k
    · cases h; exact .setdirpin a _ (.inr rfl)
  | sethook a f =>
    simp only [exec, execSethook] at h
    split at h
    · exact effect_respond h (.hookFrame a f)
    · split at h
      · exact effect_respond h (.hookTxn a f)
      · exact effect_reject rfl h
  | pktwr a v =>
    simp only [exec, execPktwr, pktOffsetInRange_iff] at h
    split at h
    · exact effect_reject rfl h
    · rename_i ha
      split at h
      · rename_i hr
        rw [store_inside (show a.toNat < 256 from hr), andThen_next] at h
        cases h; exact .pktwr a v (by simpa using ha) hr
      · exact effect_reject rfl h
  | pktrd a =>
    simp only [exec, execPktrd] at h
    split at h
    · exact effect_respond (load_eq_next h).2 (.read _ _ rfl)
    · exact effect_reject rfl h
  | nexttn => exact effect_respond h .nexttn
  | sendtxn f => exact effect_sendtxn f hI h
  | rdpktlen => exact effect_respond h (.read _ _ rfl)
  | rddisc a =>
    simp only [exec, execRddisc] at h
    split at h
    · exact effect_respond h (.read _ _ rfl)
    · exact effect_reject rfl h
  | rdstatus => exact effect_respond h (.read _ _ rfl)
  | clrflag m => exact effect_respond h (.clrflag m)
  | txReady => exact effect_txReady hI h
  | txDone => exact effect_txDone hI h
  | rxByte b => exact effect_rxByte b hI h
  | rxBreak => exact effect_rxBreak hI h
  | tick => exact effect_tick hI h
  | shiftout =>
    cases hx : s.txq with
    | nil =>
      have he : s.shiftoutEnabled = false := by simp [State.shiftoutEnabled, hx]
      simp only [exec, execShiftout, deliver_disabled he] at h
      cases h; exact .shiftNone hx
    | cons p rest =>
      have he : s.shiftoutEnabled = true := by simp [State.shiftoutEnabled, hx]
      simp only [exec, execShiftout, deliver_enabled he, shiftoutArm, hx] at h
      cases h; exact .shift p rest hx

end Sys2Proof.Machine
end

