-- ==== Sys2Proof/Laws/Encoding.lean ====
section
/-! SUPPORT. The fields of a written word are what was written, and every word is its fields (R100, R102). -/

namespace Sys2Proof

theorem cmdOp_cmdWord (op : Byte) (a : Half) (v : Byte) : cmdOp (cmdWord op a v) = op := by
  apply BitVec.eq_of_getLsbD_eq
  intro i hi
  simp only [cmdOp, cmdWord, BitVec.getLsbD_extractLsb', BitVec.getLsbD_or, BitVec.getLsbD_shiftLeft,
    BitVec.getLsbD_setWidth]
  have h1 : ¬(24 + i < 24) := by omega
  have h2 : ¬(24 + i < 8) := by omega
  have h3 : 24 + i < 32 := by omega
  have ha : a.getLsbD (24 + i - 8) = false := BitVec.getLsbD_of_ge _ _ (by omega)
  have hv : v.getLsbD (24 + i) = false := BitVec.getLsbD_of_ge _ _ (by omega)
  have he : 24 + i - 24 = i := by omega
  have hi' : i < 32 := by omega
  simp [hi, h1, h2, h3, ha, hv, he, hi']

theorem cmdA_cmdWord (op : Byte) (a : Half) (v : Byte) : cmdA (cmdWord op a v) = a := by
  apply BitVec.eq_of_getLsbD_eq
  intro i hi
  simp only [cmdA, cmdWord, BitVec.getLsbD_extractLsb', BitVec.getLsbD_or, BitVec.getLsbD_shiftLeft,
    BitVec.getLsbD_setWidth]
  have h1 : 8 + i < 24 := by omega
  have h3 : 8 + i < 32 := by omega
  have he : 8 + i - 8 = i := by omega
  have hi' : i < 32 := by omega
  simp [hi, h1, h3, he, hi']

theorem cmdV_cmdWord (op : Byte) (a : Half) (v : Byte) : cmdV (cmdWord op a v) = v := by
  apply BitVec.eq_of_getLsbD_eq
  intro i hi
  simp only [cmdV, cmdWord, BitVec.getLsbD_extractLsb', BitVec.getLsbD_or, BitVec.getLsbD_shiftLeft,
    BitVec.getLsbD_setWidth]
  have h1 : i < 24 := by omega
  have h3 : i < 32 := by omega
  simp [hi, h1, h3]

theorem evKind_evWord (k d : Byte) : evKind (evWord k d) = k := by
  apply BitVec.eq_of_getLsbD_eq
  intro i hi
  simp only [evKind, evWord, BitVec.getLsbD_extractLsb', BitVec.getLsbD_or, BitVec.getLsbD_shiftLeft,
    BitVec.getLsbD_setWidth]
  have h1 : ¬(8 + i < 8) := by omega
  have h3 : 8 + i < 16 := by omega
  have he : 8 + i - 8 = i := by omega
  have hi' : i < 16 := by omega
  simp [hi, h1, h3, he, hi']

theorem evData_evWord (k d : Byte) : evData (evWord k d) = d := by
  apply BitVec.eq_of_getLsbD_eq
  intro i hi
  simp only [evData, evWord, BitVec.getLsbD_extractLsb', BitVec.getLsbD_or, BitVec.getLsbD_shiftLeft,
    BitVec.getLsbD_setWidth]
  have h3 : i < 16 := by omega
  simp [hi, h3]

/-- A command word written from fields is decoded from those fields (R100, R171). -/
theorem decode_cmdWord (op : Byte) (a : Half) (v : Byte) :
    decode (.host (cmdWord op a v)) = decodeFields op a v := by
  simp only [decode, decodeCommand, cmdOp_cmdWord, cmdA_cmdWord, cmdV_cmdWord]

/-- Every command word is its three fields (R100). -/
theorem cmdWord_fields (w : CmdWord) : cmdWord (cmdOp w) (cmdA w) (cmdV w) = w := by
  apply BitVec.eq_of_getLsbD_eq
  intro i hi
  simp only [cmdOp, cmdA, cmdV, cmdWord, BitVec.getLsbD_extractLsb', BitVec.getLsbD_or,
    BitVec.getLsbD_shiftLeft, BitVec.getLsbD_setWidth]
  by_cases h1 : i < 8
  · have h2 : i < 24 := by omega
    simp [hi, h1, h2]
  · by_cases h2 : i < 24
    · have h3 : i - 8 < 16 := by omega
      have h4 : 8 + (i - 8) = i := by omega
      have h5 : i - 8 < 32 := by omega
      simp [hi, h1, h2, h3, h4, h5]
    · have h3 : ¬(i - 8 < 16) := by omega
      have h4 : 24 + (i - 24) = i := by omega
      have h5 : i - 24 < 8 := by omega
      have h6 : i - 24 < 32 := by omega
      simp [hi, h1, h2, h3, h4, h5, h6]

/-- Every event word is its two fields (R102). -/
theorem evWord_fields (w : EvWord) : evWord (evKind w) (evData w) = w := by
  apply BitVec.eq_of_getLsbD_eq
  intro i hi
  simp only [evKind, evData, evWord, BitVec.getLsbD_extractLsb', BitVec.getLsbD_or,
    BitVec.getLsbD_shiftLeft, BitVec.getLsbD_setWidth]
  by_cases h1 : i < 8
  · simp [hi, h1]
  · have h4 : 8 + (i - 8) = i := by omega
    have h5 : i - 8 < 8 := by omega
    have h6 : i - 8 < 16 := by omega
    simp [hi, h1, h4, h5, h6]

end Sys2Proof
end

