-- ==== Sys2Proof/Laws/Host.lean ====
section
/-! SUPPORT. Host programs and runs: when a program has returned, what one step of a host run does, what a fair host
does next. -/

namespace Sys2Proof.Machine

variable {α β : Type}

/-- A program has returned exactly when it has no next command (R250). -/
theorem ended_eq_none_iff (p : HostProg α) : p.ended = none ↔ ∃ i, p.nextCommand = some i := by
  cases p <;> simp [HostProg.ended, HostProg.nextCommand]

@[simp] theorem bind_done (a : α) (f : α → HostProg β) : (HostProg.done a).bind f = f a := rfl
@[simp] theorem bind_rejected (c : BitVec 4) (f : α → HostProg β) : (HostProg.rejected c).bind f = .rejected c := rfl
@[simp] theorem bind_issue (i : Instr) (k : RespWord → HostProg α) (f : α → HostProg β) :
    (HostProg.issue i k).bind f = .issue i fun w => (k w).bind f := rfl
@[simp] theorem bind_spin (stop : Data → Bool) (max : Config.SpinMax) (k : Data → HostProg α) (f : α → HostProg β) :
    (HostProg.spin stop max k).bind f = .spin stop max fun d => (k d).bind f := rfl

@[simp] theorem play_nil (p : HostProg α) (s : State) : p.play [] s = some (p, s) := by rw [HostProg.play]

/-- One command of a played program, when the steps before it and the command go on (R77, R250). -/
theorem play_cons {p : HostProg α} {i : Instr} {inputs : List Input} {rest : List (List Input)} {s u t : State}
    (hp : p.nextCommand = some i) (hu : runInputs inputs s = .next u) (ht : exec i u = .next t) :
    p.play (inputs :: rest) s = (p.answered (t.resp.getD 0)).play rest t := by
  rw [HostProg.play, hp]
  simp only [hu, andThen_next, ht]

/-- An accepted command answers its data (R250, R101). -/
theorem command_accepted (i : Instr) (d : Data) : (command i).answered (okWord d) = .done d := by
  simp [command, HostProg.answered]

/-- A rejected command ends the program with its cause (R250). -/
theorem command_rejected (i : Instr) (c : Cause) : (command i).answered (rejWord c) = .rejected c.code := by
  simp [command, HostProg.answered]

/-- One read of a spin: it goes on with the status, or, unless the bound is reached, spins on (R253, R259). -/
theorem spin_answered (stop : Data → Bool) (max : Config.SpinMax) (k : Data → HostProg α) (d : Data) :
    (HostProg.spin stop max k).answered (okWord d)
      = if stop d || spinSpent max then k d else .spin stop (spinLess max) k := by
  simp [HostProg.answered]

/-- A step of a host run under an event leaves the program as it is (R77). -/
theorem hostStep_event {p q : HostProg α} {w : EvWord} {t : State} (h : HostStep p q (.event w) t) : q = p := by
  rcases h with ⟨i, v, -, -, hv, -⟩ | ⟨v, -, hq⟩
  · cases hv
  · exact hq

/-- A step of a host run under a command word is the program's next command (R250). -/
theorem hostStep_host {p q : HostProg α} {w : CmdWord} {t : State} (h : HostStep p q (.host w) t) :
    ∃ i, p.nextCommand = some i ∧ encode i = .host w ∧ q = p.answered (t.resp.getD 0) := by
  rcases h with ⟨i, v, hi, hv, hw, hq⟩ | ⟨v, hw, -⟩
  · exact ⟨i, hi, by rw [hv, ← hw], hq⟩
  · cases hw

/-- What has returned stays returned. -/
theorem ended_stays {π : Nat → HostProg α} {σ : Nat → State} {x : Nat → Input} (h : IsHostRun π σ x) {n : Nat}
    {r : HostEnd α} (hn : (π n).ended = some r) : ∀ m, n ≤ m → (π m).ended = some r := by
  intro m hm
  induction m, hm using Nat.le_induction with
  | base => exact hn
  | succ m _ ih =>
    rcases h.host m with ⟨i, w, hi, -, -, -⟩ | ⟨w, -, hq⟩
    · rw [(ended_eq_none_iff (π m)).2 ⟨i, hi⟩] at ih
      cases ih
    · rw [hq]; exact ih

end Sys2Proof.Machine
end

