-- ==== Sys2Proof/Laws/PerInstr.lean ====
section
/-! SUPPORT. Per instruction: the word written for it lies in its own row of spec/opcode_table.json. -/

namespace Sys2Proof.Laws.EncodesRow

open Sys2Proof.Machine

/-- The value the table fixes in the top byte of the instruction's word (R102, R103). -/
def rowCode : Instr → Byte
  | .setslot _ _ => 0x01#8
  | .getslot _ => 0x02#8
  | .rxslot _ => 0x03#8
  | .setcount _ => 0x04#8
  | .getcount => 0x05#8
  | .rdrxlen => 0x06#8
  | .startout => 0x10#8
  | .startin => 0x11#8
  | .stop => 0x12#8
  | .setdirpin _ => 0x13#8
  | .sethook _ _ => 0x14#8
  | .pktwr _ _ => 0x20#8
  | .pktrd _ => 0x21#8
  | .nexttn => 0x22#8
  | .sendtxn _ => 0x23#8
  | .rdpktlen => 0x24#8
  | .rddisc _ => 0x25#8
  | .rdstatus => 0x30#8
  | .clrflag _ => 0x31#8
  | .txReady => 0x01#8
  | .txDone => 0x02#8
  | .rxByte _ => 0x03#8
  | .rxBreak => 0x04#8
  | .tick => 0x05#8
  | .shiftout => 0x06#8

/-- A command row has 32 bits and fixes `op`; an event row has 16 and fixes `kind` (R100, R102). -/
def Statement (i : Instr) : Prop :=
  match encode i with
  | .host w => isCommand i = true ∧ cmdOp w = rowCode i
  | .event w => isCommand i = false ∧ evKind w = rowCode i

theorem setslot (a : Half) (v : Byte) : Statement (.setslot a v) := ⟨rfl, cmdOp_cmdWord _ _ _⟩
theorem getslot (a : Half) : Statement (.getslot a) := ⟨rfl, cmdOp_cmdWord _ _ _⟩
theorem rxslot (a : Half) : Statement (.rxslot a) := ⟨rfl, cmdOp_cmdWord _ _ _⟩
theorem setcount (a : Half) : Statement (.setcount a) := ⟨rfl, cmdOp_cmdWord _ _ _⟩
theorem getcount : Statement .getcount := ⟨rfl, cmdOp_cmdWord _ _ _⟩
theorem rdrxlen : Statement .rdrxlen := ⟨rfl, cmdOp_cmdWord _ _ _⟩
theorem startout : Statement .startout := ⟨rfl, cmdOp_cmdWord _ _ _⟩
theorem startin : Statement .startin := ⟨rfl, cmdOp_cmdWord _ _ _⟩
theorem stop : Statement .stop := ⟨rfl, cmdOp_cmdWord _ _ _⟩
theorem setdirpin (a : Half) : Statement (.setdirpin a) := ⟨rfl, cmdOp_cmdWord _ _ _⟩
theorem sethook (a : Half) (v : Byte) : Statement (.sethook a v) := ⟨rfl, cmdOp_cmdWord _ _ _⟩
theorem pktwr (a : Half) (v : Byte) : Statement (.pktwr a v) := ⟨rfl, cmdOp_cmdWord _ _ _⟩
theorem pktrd (a : Half) : Statement (.pktrd a) := ⟨rfl, cmdOp_cmdWord _ _ _⟩
theorem nexttn : Statement .nexttn := ⟨rfl, cmdOp_cmdWord _ _ _⟩
theorem sendtxn (v : Byte) : Statement (.sendtxn v) := ⟨rfl, cmdOp_cmdWord _ _ _⟩
theorem rdpktlen : Statement .rdpktlen := ⟨rfl, cmdOp_cmdWord _ _ _⟩
theorem rddisc (a : Half) : Statement (.rddisc a) := ⟨rfl, cmdOp_cmdWord _ _ _⟩
theorem rdstatus : Statement .rdstatus := ⟨rfl, cmdOp_cmdWord _ _ _⟩
theorem clrflag (v : Byte) : Statement (.clrflag v) := ⟨rfl, cmdOp_cmdWord _ _ _⟩
theorem txReady : Statement .txReady := ⟨rfl, evKind_evWord _ _⟩
theorem txDone : Statement .txDone := ⟨rfl, evKind_evWord _ _⟩
theorem rxByte (b : Byte) : Statement (.rxByte b) := ⟨rfl, evKind_evWord _ _⟩
theorem rxBreak : Statement .rxBreak := ⟨rfl, evKind_evWord _ _⟩
theorem tick : Statement .tick := ⟨rfl, evKind_evWord _ _⟩
theorem shiftout : Statement .shiftout := ⟨rfl, evKind_evWord _ _⟩

end Sys2Proof.Laws.EncodesRow
end

