-- ==== Sys2Proof/Machine/DiscDecode.lean ====
section
/-! DEFINITION. The instance of `DiscDecode` the spec's vectors use. PRESUMED: it is general knowledge of the spec's
(93_implementation_defined.md G7), one value of an OPEN parameter; no meaning calls it (log 17). -/

namespace Sys2Proof.Machine

/-- Drop at most `n` preamble bytes 0xFE (G7). -/
def dropPreamble : Nat → List Byte → List Byte
  | 0, l => l
  | _ + 1, [] => []
  | n + 1, b :: l => if b = 0xFE#8 then dropPreamble n l else b :: l

/-- The bytes of an encoded list, each the bitwise and of a pair (G7). -/
def decodePairs : List Byte → List Byte
  | x :: y :: l => (x &&& y) :: decodePairs l
  | _ => []

/-- The first six bytes as an address, most significant first (G7, R109). -/
def uidOfBytes (l : List Byte) : BitVec 48 :=
  BitVec.ofNat 48 ((l.take 6).foldl (fun acc b => acc * 256 + b.toNat) 0)

/-- The twelve address bytes and four checksum bytes after the separator (G7). -/
def decodeReplyBody (l : List Byte) : Option Uid :=
  if l.length < 16 then none
  else if ((decodePairs ((l.drop 12).take 4)).foldl (fun acc b => acc * 256 + b.toNat) 0)
      = ((l.take 12).map BitVec.toNat).sum % 65536 then
    some (uidOfBytes (decodePairs (l.take 12)))
  else none

/-- The default `DiscDecode` (93_implementation_defined.md G7). -/
def discDecodeDefault (r : List Byte) : Option Uid :=
  match dropPreamble 7 r with
  | [] => none
  | b :: l => if b = 0xAA#8 then decodeReplyBody l else none

end Sys2Proof.Machine
end

