-- ==== Sys2Proof/Tests/Slice0.lean ====
section
/-! SUPPORT. Tests: the well-formedness smoke, one written-out word per constructor, single steps with results from
spec/95_test_vectors.md and the rules, and a witness for every statement with hypotheses. -/

namespace Sys2Proof.Tests

open Sys2Proof.Machine

/-! ## Well-formedness: what the check refuses -/

theorem test_wf_refuses_sethook_ignored_bit : (Instr.sethook 0#16 0x02#8).wf = false := by decide
theorem test_wf_refuses_sendtxn_ignored_bit : (Instr.sendtxn 0x04#8).wf = false := by decide
theorem test_wf_refuses_clrflag_ignored_bit : (Instr.clrflag 0x08#8).wf = false := by decide
theorem test_wf_accepts_all_read_bits :
    (Instr.sethook 0xFFFF#16 0x01#8).wf = true ∧ (Instr.sendtxn 0x03#8).wf = true
      ∧ (Instr.clrflag 0x07#8).wf = true := by decide

/-! ## Decoding: words written out from R100, R102, R103 -/

theorem test_decode_setslot : decodeTableWord 32 0x01000222 = some (.setslot 2#16 0x22#8) := by decide
theorem test_decode_getslot : decodeTableWord 32 0x02006455 = some (.getslot 100#16) := by decide
theorem test_decode_rxslot : decodeTableWord 32 0x03020000 = some (.rxslot 512#16) := by decide
theorem test_decode_setcount : decodeTableWord 32 0x04025800 = some (.setcount 600#16) := by decide
theorem test_decode_getcount : decodeTableWord 32 0x05ABCDEF = some .getcount := by decide
theorem test_decode_rdrxlen : decodeTableWord 32 0x06000000 = some .rdrxlen := by decide
theorem test_decode_startout : decodeTableWord 32 0x10000000 = some .startout := by decide
theorem test_decode_startin : decodeTableWord 32 0x11000000 = some .startin := by decide
theorem test_decode_stop : decodeTableWord 32 0x12000000 = some .stop := by decide
theorem test_decode_setdirpin : decodeTableWord 32 0x13000500 = some (.setdirpin 5#16) := by decide
theorem test_decode_sethook : decodeTableWord 32 0x140001FF = some (.sethook 1#16 0x01#8) := by decide
theorem test_decode_pktwr : decodeTableWord 32 0x2000FF77 = some (.pktwr 255#16 0x77#8) := by decide
theorem test_decode_pktrd : decodeTableWord 32 0x21010000 = some (.pktrd 256#16) := by decide
theorem test_decode_nexttn : decodeTableWord 32 0x22000000 = some .nexttn := by decide
theorem test_decode_sendtxn : decodeTableWord 32 0x230000FE = some (.sendtxn 0x02#8) := by decide
theorem test_decode_rdpktlen : decodeTableWord 32 0x24000000 = some .rdpktlen := by decide
theorem test_decode_rddisc : decodeTableWord 32 0x25000600 = some (.rddisc 6#16) := by decide
theorem test_decode_rdstatus : decodeTableWord 32 0x30000000 = some .rdstatus := by decide
theorem test_decode_clrflag : decodeTableWord 32 0x310000F4 = some (.clrflag 0x04#8) := by decide
theorem test_decode_txReady : decodeTableWord 16 0x0100 = some .txReady := by decide
theorem test_decode_txDone : decodeTableWord 16 0x0200 = some .txDone := by decide
theorem test_decode_rxByte : decodeTableWord 16 0x033D = some (.rxByte 0x3D#8) := by decide
theorem test_decode_rxBreak : decodeTableWord 16 0x0400 = some .rxBreak := by decide
theorem test_decode_tick : decodeTableWord 16 0x0500 = some .tick := by decide
theorem test_decode_shiftout : decodeTableWord 16 0x0600 = some .shiftout := by decide
theorem test_decode_refuses_unlisted_opcode :
    decode (.host 0x7F000102#32) = .error (.badOpcode 0x7F#8) := by decide
theorem test_decode_refuses_event_kind_zero :
    decode (.event 0x0000#16) = .error (.badEventKind 0x00#8) := by decide

/-! ## States the tests start from -/

/-- Right after STARTOUT: the first break is in `TXQ` (R160). -/
def sending : State :=
  { State.reset with
    run := true, dir := true, baudSel := .brk, txq := [⟨0x00#8, .brk⟩], txState := .txBreak, ieTxDone := true }

/-- The same, the break having left the wire. -/
def breakSent : State := { sending with txq := [], txc := true, trace := [.brk] }

/-- In a frame of 512 slots, slot `i` next. -/
def slotNext (i : BitVec 10) : State :=
  { State.reset with
    run := true, dir := true, txc := true, txIdx := i, txState := .txData, ieTxRdy := true,
    txFrame := [(3, 0x33#8)] }

/-- At the end of a frame. -/
def frameDone : State := { State.reset with run := true, dir := true, txc := true, ieTxDone := true }

/-- In continuous receive. -/
def listening (r : RxState) (i : BitVec 10) : State :=
  { State.reset with run := true, taskMode := .contRecv, ieRx := true, rxState := r, rxIdx := i }

/-- A packet with length byte 24 is ready. -/
def packetReady : State := { sending with txPkt := [(2, 24#8)] }

/-- In a transaction. -/
def inTxn : State := { packetReady with taskMode := .sendTxn, result := .pending }

/-- In a transaction, the break of the packet in `TXQ`. -/
def packetBreak : State := { inTxn with txState := .txPktBreak }

/-- In a transaction, packet byte `i` of 25 next. -/
def packetNext (i : BitVec 10) : State :=
  { inTxn with
    txState := .txPktData, txIdx := i, txPktLen := 25#9, baudSel := .data, txq := [], txc := true,
    ieTxDone := false, ieTxRdy := true }

/-- In a transaction, the last byte of the packet having left the wire. -/
def packetSent : State := { inTxn with txState := .txPktLast, txq := [], txc := true, baudSel := .data }

/-- Waiting for a response, `n` bytes in and `k` ticks left. -/
def waiting (n : BitVec 10) (k : BitVec 16) : State :=
  { inTxn with
    txState := .txWaitResp, txq := [], txc := true, baudSel := .data, dir := false, ieTxDone := false,
    ieRx := true, rxIdx := n, toCnt := k }

/-- The response word a step leaves. -/
def respAfter (r : Res) : Option RespWord :=
  match r with
  | .next t => t.resp
  | .fault _ => none
  | .refused _ => none

/-- A test of the state a step leaves. -/
def after (r : Res) (p : State → Bool) : Bool :=
  match r with
  | .next t => p t
  | .fault _ => false
  | .refused _ => false

/-- A step that runs the table word next. -/
def stepWord (s : State) (nbits w : Nat) : Res := step (s.withFetchWord nbits w)

/-! ## Single steps (spec/95_test_vectors.md L2 and the rules) -/

theorem test_setslot_past_count : respAfter (stepWord State.reset 32 0x01020101) = some 0x90000000#32 := by decide
theorem test_setslot_last :
    after (stepWord State.reset 32 0x01020009) (fun t => t.txFrame == [(512, 0x09#8)]) = true := by decide
theorem test_getslot_zero : respAfter (stepWord State.reset 32 0x02000000) = some 0x90000000#32 := by decide
theorem test_getslot : respAfter (stepWord (slotNext 3#10) 32 0x02000300) = some 0x00000033#32 := by decide
theorem test_rxslot_last : respAfter (stepWord State.reset 32 0x03020000) = some 0x00000000#32 := by decide
theorem test_rxslot_past_end : respAfter (stepWord State.reset 32 0x03020100) = some 0x90000000#32 := by decide
theorem test_setcount_clamps_to_512 : clampCountFrom 4 600 = 512 := by decide
theorem test_setcount_clamps_to_floor : clampCountFrom 4 0 = 4 ∧ clampCountFrom 4 100 = 100 := by decide
theorem test_getcount : respAfter (stepWord State.reset 32 0x05ABCDEF) = some 0x00000200#32 := by decide
theorem test_rdrxlen :
    respAfter (stepWord { State.reset with rxLen := 24#10 } 32 0x06000000) = some 0x00000018#32 := by decide
theorem test_startout_status :
    after (stepWord State.reset 32 0x10000000) (fun t => t.status == 0x70C#27 && t.trace == []) = true := by decide
theorem test_startout_not_drained :
    respAfter (stepWord { sending with run := false, txState := .txIdle, ieTxDone := false } 32 0x10000000)
      = some 0xB8000000#32 := by decide
theorem test_startin_busy : respAfter (stepWord sending 32 0x11000000) = some 0x98000000#32 := by decide
theorem test_startin_listens :
    after (stepWord State.reset 32 0x11000000)
      (fun t => t.taskMode == .contRecv && t.ieRx && !t.dir && t.run) = true := by decide
theorem test_stop_status :
    after (stepWord sending 32 0x12000000) (fun t => t.status == 0x700#27) = true := by decide
theorem test_setdirpin_logs_level :
    after (stepWord sending 32 0x13000500) (fun t => t.trace == [.dir true] && t.dirPin == 5#16) = true := by decide
theorem test_sethook_bad_operand : respAfter (stepWord State.reset 32 0x14000201) = some 0xC0000000#32 := by decide
theorem test_sethook_txn :
    after (stepWord State.reset 32 0x14000101) (fun t => t.hookTxnEn && !t.hookFrameEn) = true := by decide
theorem test_pktwr_past_end : respAfter (stepWord State.reset 32 0x20010000) = some 0x90000000#32 := by decide
theorem test_pktwr_busy : respAfter (stepWord inTxn 32 0x20010000) = some 0x98000000#32 := by decide
theorem test_pktrd_past_end : respAfter (stepWord State.reset 32 0x21010000) = some 0x90000000#32 := by decide
theorem test_nexttn_wraps :
    after (stepWord { State.reset with tn := 255#8 } 32 0x22000000)
      (fun t => t.tn == 0#8 && t.resp == some 0x000000FF#32) = true := by decide
theorem test_sendtxn_not_running : respAfter (stepWord State.reset 32 0x23000001) = some 0xA0000000#32 := by decide
theorem test_sendtxn_in_a_frame :
    after (stepWord { packetReady with cmdErr := true } 32 0x23000000) (fun t => t.status == 0x2470E#27) = true := by
  decide
theorem test_rdpktlen :
    respAfter (stepWord { State.reset with rxPktLen := 256#9 } 32 0x24000000) = some 0x00000100#32 := by decide
theorem test_rddisc_first_byte :
    respAfter (stepWord { State.reset with discUid := 0x010203040506#48 } 32 0x25000000) = some 0x01#32 := by decide
theorem test_rddisc_last_byte :
    respAfter (stepWord { State.reset with discUid := 0x010203040506#48 } 32 0x25000500) = some 0x06#32 := by decide
theorem test_rdstatus : respAfter (stepWord sending 32 0x30000000) = some 0x0000070C#32 := by decide
theorem test_clrflag :
    after (stepWord { State.reset with cmdErr := true, txnRcvd := true, frameRcvd := true } 32 0x31000004)
      (fun t => !t.cmdErr && t.txnRcvd && t.frameRcvd) = true := by decide
theorem test_unlisted_opcode_rejected :
    respAfter (stepWord State.reset 32 0x7F000102) = some 0x88000000#32 := by decide
theorem test_txReady_slot :
    after (stepWord (slotNext 3#10) 16 0x0100)
      (fun t => t.txq == [⟨0x33#8, .data⟩] && t.txIdx == 4#10 && t.txState == .txData) = true := by decide
theorem test_txReady_last_packet_byte :
    after (stepWord (packetNext 24#10) 16 0x0100) (fun t => t.txState == .txPktLast && t.ieTxDone) = true := by decide
theorem test_txDone_start_code :
    after (stepWord breakSent 16 0x0200)
      (fun t => t.txq == [⟨0x00#8, .data⟩] && t.txState == .txStart && !t.ieTxDone && t.ieTxRdy) = true := by decide
theorem test_txDone_turnaround :
    after (stepWord packetSent 16 0x0200) (fun t => t.txState == .txWaitResp && !t.dir && t.ieRx) = true := by decide
theorem test_rxByte_slot :
    after (stepWord (listening .rxReceiving 5#10) 16 0x033D)
      (fun t => t.rxFrame == [(5, 0x3D#8)] && t.rxIdx == 6#10) = true := by decide
theorem test_rxByte_beyond_buffer :
    after (stepWord (listening .rxReceiving 513#10) 16 0x033D)
      (fun t => t.rxFrame == [] && t.rxIdx == 513#10 && t.trace == [.rx 0x3D#8]) = true := by decide
theorem test_rxBreak_reports :
    after (stepWord { listening .rxReceiving 513#10 with hookFrameEn := true } 16 0x0400)
      (fun t => t.rxLen == 512#10 && t.frameRcvd && t.trace == [.rxBrk, .notify .frame 512]) = true := by decide
theorem test_rxBreak_of_response :
    after (stepWord (waiting 9#10 7#16) 16 0x0400) (fun t => t.rxIdx == 0#10 && t.rxAny && !t.frameRcvd) = true := by
  decide
theorem test_tick_counts : after (stepWord (waiting 0#10 7#16) 16 0x0500) (fun t => t.toCnt == 6#16) = true := by decide
theorem test_tick_no_reply :
    after (stepWord (waiting 0#10 1#16) 16 0x0500)
      (fun t => t.result == .noReply && t.taskMode == .contSend && t.txState == .txIdle && t.dir) = true := by decide
theorem test_shiftout_break :
    after (stepWord sending 16 0x0600) (fun t => t.trace == [.brk] && t.txc && t.txq == []) = true := by decide
theorem test_shiftout_not_last :
    after (stepWord { slotNext 3#10 with txc := false, txq := [⟨0x11#8, .data⟩, ⟨0x22#8, .data⟩] } 16 0x0600)
      (fun t => t.trace == [.tx 0x11#8] && !t.txc) = true := by decide

/-! ## Checksum, validation, discovery decoding (spec/95_test_vectors.md L2.5, L2.6) -/

/-- A buffer that holds a list of bytes from an index up. -/
def memoryOf : Nat → List Byte → Memory
  | _, [] => []
  | i, b :: l => Memory.entry i b (memoryOf (i + 1) l)

/-- The request of vector set X, without its checksum. -/
def request : List Byte :=
  [0xCC#8, 0x01#8, 0x18#8, 0x7A#8, 0x70#8, 0x00#8, 0x00#8, 0x00#8, 0x42#8, 0x01#8, 0x02#8, 0x03#8, 0x04#8,
    0x05#8, 0x06#8, 0x00#8, 0x01#8, 0x00#8, 0x00#8, 0x00#8, 0x10#8, 0x00#8, 0x02#8, 0x00#8]

/-- The good response of vector set X, without its checksum. -/
def response : List Byte :=
  [0xCC#8, 0x01#8, 0x1A#8, 0x01#8, 0x02#8, 0x03#8, 0x04#8, 0x05#8, 0x06#8, 0x7A#8, 0x70#8, 0x00#8, 0x00#8,
    0x00#8, 0x42#8, 0x00#8, 0x00#8, 0x00#8, 0x00#8, 0x00#8, 0x11#8, 0x00#8, 0x02#8, 0x02#8, 0x00#8, 0x00#8]

/-- The wait, the whole response in with its checksum byte. -/
def answered (sum : Byte) : State :=
  { waiting 27#10 3#16 with
    txPkt := memoryOf 0 request, rxPkt := memoryOf 0 (response ++ [sum]), rxAny := true }

theorem test_checksum_request : checksum request = 0x39 := by decide
theorem test_checksum_two_bytes : checksumOf 2 request = 0x239 := by decide
theorem test_validate_x1_valid : validate (answered 0x3D#8) = ⟨.valid, .none⟩ := by decide
theorem test_validate_x2_checksum : validate (answered 0x3C#8) = ⟨.malformed, .checksum⟩ := by decide
theorem test_discDecode_reply :
    discDecodeDefault
      [0xFE#8, 0xFE#8, 0xFE#8, 0xFE#8, 0xFE#8, 0xFE#8, 0xFE#8, 0xAA#8, 0xFA#8, 0x7F#8, 0xFA#8, 0x75#8, 0xAA#8,
        0x55#8, 0xAA#8, 0x55#8, 0xAA#8, 0x55#8, 0xEA#8, 0x57#8, 0xAF#8, 0x57#8, 0xAE#8, 0x77#8]
      = some 0x7A7000000042#48 := by decide

/-- The header constants of the test configuration T. -/
def headerT : Config.Header where
  scPkt := 0xCC#8
  subscPkt := 0x01#8
  controllerUid := 0x010203040506#48
  portId := 1#8
  subdev := 0#16
  msgCount := 0#8
  ccDisc := 0x10#8
  ccGet := 0x20#8
  ccSet := 0x30#8
  pidDiscBranch := 0x0001#16
  pidMute := 0x0002#16
  pidUnmute := 0x0003#16

/-- The outcome of a host program run alone for `n` commands. -/
def alone {α : Type} (p : HostProg α) (n : Nat) (s : State) : Option (Option (HostEnd α) × State) :=
  (p.play (List.replicate n []) s).map fun r => (r.1.ended, r.2)

theorem test_buildpkt_mute_request :
    (alone (buildpkt Config.layout headerT 0x7A7000000042#48 0x10#8 0x0002#16 []) 26 State.reset).map
        (fun r => (r.1, r.2.txPkt, r.2.tn))
      = some (some (.done 0#8), memoryOf 0 (request ++ [0x39#8]), 1#8) := by decide

/-- The same request in the layout D10 gives as the alternative. -/
theorem test_buildpkt_alternative_layout :
    (alone (buildpkt .alternative headerT 0x7A7000000042#48 0x10#8 0x0002#16 []) 26 State.reset).map
        (fun r => r.2.txPkt)
      = some (memoryOf 0
          [0x00#8, 0x01#8, 0x7A#8, 0x70#8, 0x00#8, 0x00#8, 0x00#8, 0x42#8, 0x01#8, 0x02#8, 0x03#8, 0x04#8,
            0x05#8, 0x06#8, 0x00#8, 0x00#8, 0xCC#8, 0x01#8, 0x18#8, 0x00#8, 0x10#8, 0x00#8, 0x02#8, 0x00#8,
            0x39#8]) := by decide

theorem test_sendwait_not_running :
    (alone (sendwait .unbounded 0#8) 1 State.reset).map (fun r => r.1) = some (some (.rejected 4#4)) := by decide

/-- `HOST_SPIN_MAX = 2`: two reads, then the spin gives up while the transaction is active (R253). -/
theorem test_sendwait_gives_up :
    (alone (sendwait (.finite 2) 0#8) 3 packetReady).map (fun r => r.1) = some (some (.done .spinExhausted)) := by
  decide

/-- With no bound it is still spinning (R253, R259). -/
theorem test_unbounded_spins_on :
    (alone (sendwait .unbounded 0#8) 9 packetReady).map (fun r => r.1) = some none ∧
      (alone (waitframe .unbounded) 9 State.reset).map (fun r => r.1) = some none := by decide

/-! ## The invariant at concrete states -/

theorem inv_sending : Inv sending := by
  constructor
  case slotFloor => exact slotsMin_bounds.2
  case memory => intro b; cases b <;> decide
  all_goals decide

theorem inv_breakSent : Inv breakSent := by
  constructor
  case slotFloor => exact slotsMin_bounds.2
  case memory => intro b; cases b <;> decide
  all_goals decide

theorem inv_slotNext : Inv (slotNext 512#10) := by
  constructor
  case slotFloor => exact slotsMin_bounds.2
  case memory => intro b; cases b <;> decide
  all_goals decide

theorem inv_listening : Inv (listening .rxStart 0#10) := by
  constructor
  case slotFloor => exact slotsMin_bounds.2
  case memory => intro b; cases b <;> decide
  all_goals decide

theorem inv_packetReady : Inv packetReady := by
  constructor
  case slotFloor => exact slotsMin_bounds.2
  case memory => intro b; cases b <;> decide
  all_goals decide

theorem inv_inTxn : Inv inTxn := by
  constructor
  case slotFloor => exact slotsMin_bounds.2
  case memory => intro b; cases b <;> decide
  all_goals decide

theorem inv_packetBreak : Inv packetBreak := by
  constructor
  case slotFloor => exact slotsMin_bounds.2
  case memory => intro b; cases b <;> decide
  all_goals decide

theorem inv_packetNext : Inv (packetNext 24#10) := by
  constructor
  case slotFloor => exact slotsMin_bounds.2
  case memory => intro b; cases b <;> decide
  all_goals decide

theorem inv_waiting : Inv (waiting 256#10 1#16) := by
  constructor
  case slotFloor => exact slotsMin_bounds.2
  case memory => intro b; cases b <;> decide
  all_goals decide

/-- Reset with `STARTOUT` to come. -/
def startToCome : State := { State.reset with schedule := [.host 0x10000000#32] }

theorem inv_startToCome : Inv startToCome := by
  constructor
  case slotFloor => exact slotsMin_bounds.2
  case memory => intro b; cases b <;> decide
  all_goals decide

/-- Reset with an event word of an unlisted kind to come. -/
def unlistedToCome : State := { State.reset with schedule := [.event 0x0700#16] }

theorem inv_unlistedToCome : Inv unlistedToCome := by
  constructor
  case slotFloor => exact slotsMin_bounds.2
  case memory => intro b; cases b <;> decide
  all_goals decide

/-! ## Witnesses: the hypotheses of each statement are met, clause by clause -/

theorem witness_DecodeOfEncode : (Instr.clrflag 0x07#8).wf = true ∧ (Instr.setslot 0xFFFF#16 0xFF#8).wf = true := by
  decide

theorem witness_CommandDispatch :
    (cmdWord 0x31#8 0 0).extractLsb' 24 8 = 0x31#8 ∧ (cmdWord 0x32#8 0 0).extractLsb' 24 8 = 0x32#8 := by decide

theorem witness_EventDispatch :
    (0x0000#16).extractLsb' 8 8 ∉ [0x01#8, 0x02#8, 0x03#8, 0x04#8, 0x05#8, 0x06#8] ∧
      (0x07FF#16).extractLsb' 8 8 ∉ [0x01#8, 0x02#8, 0x03#8, 0x04#8, 0x05#8, 0x06#8] := by decide

theorem witness_StepRunsDecodedInstruction :
    startToCome.schedule = .host 0x10000000#32 :: [] ∧ decode (.host 0x10000000#32) = .ok .startout ∧
      decodeTableWord 32 0x05000000 = some .getcount := by decide

theorem witness_StepKeepsInvariant :
    Inv startToCome ∧ ∃ t, step startToCome = .next t := ⟨inv_startToCome, _, rfl⟩

theorem witness_EveryInstructionCompletes : Inv sending ∧ Inv (waiting 256#10 1#16) := ⟨inv_sending, inv_waiting⟩

theorem witness_StepStopsOnlyAtUnlistedKind :
    Inv unlistedToCome ∧ step unlistedToCome = .refused (.unlistedEventKind 0x07#8) ∧
      ∃ t, step startToCome = .next t := ⟨inv_unlistedToCome, rfl, _, rfl⟩

theorem witness_BaudChangesOnlyWhenQueueEmpty :
    Inv breakSent ∧ after (exec .txDone breakSent) (fun t => t.baudSel != breakSent.baudSel) = true :=
  ⟨inv_breakSent, by decide⟩

theorem witness_ResponseWords :
    (∃ t, exec .getcount sending = .next t) ∧ (∃ t, exec (.getslot 0#16) sending = .next t) ∧
      ∃ t, exec .shiftout sending = .next t := ⟨⟨_, rfl⟩, ⟨_, rfl⟩, ⟨_, rfl⟩⟩

theorem witness_CmdErrIsSticky :
    after (exec (.getslot 0#16) sending) (fun t => !t.accepted && t.cmdErr) = true ∧
      after (exec (.clrflag 0x04#8) { sending with cmdErr := true }) (fun t => !t.cmdErr) = true := by decide

theorem witness_StoresOnlyAtTarget :
    (∃ t, exec (.setslot 512#16 1#8) sending = .next t) ∧
      (∃ t, exec (.rxByte 1#8) (waiting 255#10 1#16) = .next t) ∧
      storeTarget (.setslot 512#16 1#8) sending ≠ some (.txFrame, 511) ∧
      storeTarget (.rxByte 1#8) (waiting 255#10 1#16) = some (.rxPkt, 255) := by
  refine ⟨⟨_, rfl⟩, ?_, by decide, by decide⟩
  exact ⟨_, rfl⟩

theorem witness_SlotRoundTrip :
    Inv sending ∧
      after (exec (.setslot 3#16 0x55#8) sending) (fun t => t.accepted) = true ∧
      after (andThen (exec (.setslot 3#16 0x55#8) sending)
        (runInputs [encode .shiftout, encode (.setslot 4#16 0x66#8)])) (fun _ => true) = true ∧
      (∀ y ∈ [encode .shiftout, encode (.setslot 4#16 0x66#8)], ∀ z : Byte, decode y ≠ .ok (.setslot 3#16 z)) ∧
      ∀ y ∈ [encode .shiftout, encode (.setslot 4#16 0x66#8)], ∀ n : Half, decode y = .ok (.setcount n) →
        (3#16).toNat ≤ n.toNat := by
  refine ⟨inv_sending, by decide, by decide, ?_, ?_⟩
  · intro y hy z h
    simp only [List.mem_cons, List.not_mem_nil, or_false] at hy
    rcases hy with rfl | rfl
    · cases h
    · have e : decode (encode (.setslot 4#16 0x66#8)) = .ok (.setslot 4#16 0x66#8) := by decide
      rw [e] at h; injection h with h; injection h with h; revert h; decide
  · intro y hy n h
    simp only [List.mem_cons, List.not_mem_nil, or_false] at hy
    rcases hy with rfl | rfl <;> cases h

theorem witness_SetslotRule :
    State.reset.txFrame.wf = true ∧ State.reset.slotCount.toNat = 512 ∧ State.reset.slotCount.toNat ≤ 512 ∧
      (1 ≤ (1#16).toNat ∧ (512#16).toNat ≤ 512) ∧ ¬1 ≤ (0#16).toNat ∧ ¬(513#16).toNat ≤ 512 := by decide

theorem witness_ByteReads :
    State.reset.slotCount.toNat ≤ 512 ∧ (512#16).toNat ≤ 512 ∧ ¬(513#16).toNat ≤ 512 ∧ ¬256 ≤ (255#16).toNat ∧
      256 ≤ (256#16).toNat := by decide

theorem witness_PktwrRule :
    inTxn.txPkt.wf = true ∧ inTxn.txnActive = true ∧ sending.txPkt.wf = true ∧ sending.txnActive = false ∧
      256 ≤ (256#16).toNat ∧ ¬256 ≤ (255#16).toNat := by decide

/-- The conditions of `STARTOUT` and `STARTIN`: accepted, busy by a transaction, busy by running, not drained. -/
theorem witness_StartoutRule :
    (State.reset.txnActive = false ∧ State.reset.run = false ∧ State.reset.txq = []) ∧ inTxn.txnActive = true ∧
      (sending.run = true ∧ sending.quiescent = false) ∧ { sending with run := false }.txq ≠ [] := by decide

/-- A running, quiescent engine with a packet ready: what plain `SENDTXN` leaves behind. -/
def quietSender : State := { State.reset with run := true, dir := true, txPkt := [(2, 24#8)] }

theorem witness_SendtxnRule :
    (quietSender.run = true ∧ quietSender.quiescent = true ∧ quietSender.txq = [] ∧
      (quietSender.byteAt .txPkt 2).toNat = 24) ∧
    (packetReady.run = true ∧ packetReady.quiescent = false) ∧ State.reset.run = false ∧
    inTxn.txnActive = true ∧ (listening .rxIdle 0#10).taskMode ≠ .contSend ∧
    (sending.byteAt .txPkt 2).toNat < 24 := by decide

theorem witness_FrameBoundaryRule :
    (breakSent.txq = [] ∧ breakSent.taskMode = .contSend) ∧ (packetSent.txq = [] ∧ packetSent.txnActive = true) ∧
      ((listening .rxIdle 0#10).txq = [] ∧ (listening .rxIdle 0#10).taskMode = .contRecv) := by decide

theorem witness_ShiftoutRule :
    sending.txq = ⟨0x00#8, .brk⟩ :: [] ∧
      ({ sending with txq := [⟨1#8, .data⟩, ⟨2#8, .data⟩] } : State).txq = ⟨1#8, .data⟩ :: [⟨2#8, .data⟩] := by decide

theorem witness_DisabledEventsChangeNothing :
    State.reset.run = false ∧ State.reset.txq = [] ∧
      ¬({ slotNext 3#10 with txq := [⟨1#8, .data⟩, ⟨2#8, .data⟩] } : State).txq.length < 2 ∧
      sending.txc = false ∧ sending.ieRx = false := by decide

theorem witness_TxDoneAtFrameEnd :
    (frameDone.run = true ∧ frameDone.ieTxDone = true ∧ frameDone.txc = true ∧ frameDone.txState = .txIdle ∧
      frameDone.txq = [] ∧ frameDone.taskMode = .contSend) ∧
    ({ frameDone with taskMode := .sendTxn } : State).txnActive = true ∧
    ({ frameDone with taskMode := .contRecv } : State).txnActive = false := by decide

theorem witness_TxDoneAfterBreak :
    (breakSent.run = true ∧ breakSent.ieTxDone = true ∧ breakSent.txc = true ∧ breakSent.txq = [] ∧
      breakSent.txState = .txBreak) ∧
    ({ breakSent with txState := .txPktBreak } : State).txState = .txPktBreak := by decide

theorem witness_TxReadySendsSlot :
    ((slotNext 512#10).run = true ∧ (slotNext 512#10).ieTxRdy = true ∧ (slotNext 512#10).txq.length < 2 ∧
      (slotNext 512#10).txState = .txData ∧ (slotNext 512#10).slotCount.toNat ≤ 512) ∧
    (slotNext 511#10).txIdx.toNat < (slotNext 511#10).slotCount.toNat ∧
    (slotNext 512#10).txIdx.toNat = (slotNext 512#10).slotCount.toNat ∧
    (slotNext 513#10).slotCount.toNat < (slotNext 513#10).txIdx.toNat ∧
    ({ slotNext 1#10 with txState := .txStart } : State).txState = .txStart := by decide

theorem witness_ArmsThatDoNothing :
    (({ slotNext 3#10 with txState := .txIdle } : State).ieTxRdy = true ∧ (slotNext 3#10).run = true ∧
      (slotNext 3#10).txq.length < 2) ∧
    (({ breakSent with txState := .txWaitResp } : State).ieTxDone = true ∧ breakSent.run = true ∧
      breakSent.txc = true) := by decide

theorem witness_RxBreakDelimitsFrames :
    ((listening .rxReceiving 1#10).run = true ∧ (listening .rxReceiving 1#10).ieRx = true ∧
      (listening .rxReceiving 1#10).txState ≠ .txWaitResp ∧ (listening .rxReceiving 1#10).rxIdx ≠ 0#10) ∧
    (listening .rxIdle 0#10).rxState ≠ .rxReceiving ∧
    ({ listening .rxIdle 0#10 with taskMode := .contSend } : State).taskMode ≠ .contRecv := by decide

theorem witness_RxByteStoresSlots :
    ((listening .rxStart 0#10).run = true ∧ (listening .rxStart 0#10).ieRx = true ∧
      (listening .rxStart 0#10).txState ≠ .txWaitResp ∧ (listening .rxStart 0#10).rxFrame.wf = true ∧
      (listening .rxStart 0#10).taskMode = .contRecv) ∧
    (listening .rxReceiving 512#10).rxIdx.toNat ≤ 512 ∧ ¬(listening .rxReceiving 513#10).rxIdx.toNat ≤ 512 := by decide

theorem witness_ReceivedFrame :
    Inv (listening .rxStart 0#10) ∧ (listening .rxStart 0#10).run = true ∧ (listening .rxStart 0#10).ieRx = true ∧
      (listening .rxStart 0#10).taskMode = .contRecv ∧ (listening .rxStart 0#10).rxState = .rxStart ∧
      [0x00#8] ≠ [] := ⟨inv_listening, rfl, rfl, rfl, rfl, by decide⟩

theorem witness_TxReadySendsPacketByte :
    ((packetNext 24#10).run = true ∧ (packetNext 24#10).ieTxRdy = true ∧ (packetNext 24#10).txq.length < 2 ∧
      (packetNext 24#10).txState = .txPktData ∧ (packetNext 24#10).txIdx.toNat < (packetNext 24#10).txPktLen.toNat ∧
      (packetNext 24#10).txPktLen.toNat ≤ 256 ∧
      (packetNext 24#10).txPktLen.toNat ≤ (packetNext 24#10).txIdx.toNat + 1) ∧
    ¬(packetNext 23#10).txPktLen.toNat ≤ (packetNext 23#10).txIdx.toNat + 1 := by decide

theorem witness_Turnaround :
    packetSent.run = true ∧ packetSent.ieTxDone = true ∧ packetSent.txc = true ∧ packetSent.txState = .txPktLast := by
  decide

/-- Addressed and discovery waits, with room and without. -/
theorem witness_RxByteOfResponse :
    ((waiting 255#10 1#16).run = true ∧ (waiting 255#10 1#16).ieRx = true ∧
      (waiting 255#10 1#16).txState = .txWaitResp ∧ (waiting 255#10 1#16).rxPkt.wf = true ∧
      (waiting 255#10 1#16).respKind = .addressed ∧ (waiting 255#10 1#16).rxIdx.toNat < 256) ∧
    ¬(waiting 256#10 1#16).rxIdx.toNat < 256 ∧
    ({ waiting 0#10 1#16 with respKind := .discovery } : State).respKind ≠ .addressed := by decide

theorem witness_RxBreakOfResponse :
    (waiting 9#10 1#16).run = true ∧ (waiting 9#10 1#16).ieRx = true ∧ (waiting 9#10 1#16).txState = .txWaitResp ∧
      (waiting 9#10 1#16).respKind = .addressed := by decide

theorem witness_TickRule :
    ((waiting 0#10 2#16).run = true ∧ (waiting 0#10 2#16).txState = .txWaitResp ∧ 1 < (waiting 0#10 2#16).toCnt.toNat) ∧
      (waiting 0#10 1#16).toCnt.toNat = 1 ∧ sending.txState ≠ .txWaitResp := by decide

theorem witness_ValidateRule : ((answered 0x3D#8).byteAt .rxPkt 2).toNat = 26 := by decide

theorem witness_ResolveRule :
    (waiting 256#10 1#16).txq = [] ∧ (waiting 256#10 1#16).rxIdx.toNat ≤ 256 ∧
      (waiting 256#10 1#16).taskMode ≠ .sendTxnResume ∧
      ({ waiting 256#10 1#16 with taskMode := .sendTxnResume } : State).taskMode = .sendTxnResume := by decide

theorem witness_DiscResultRule :
    (waiting 256#10 1#16).rxIdx.toNat ≤ 256 ∧ (waiting 256#10 1#16).rxAny = false ∧
      ({ waiting 1#10 1#16 with rxAny := true } : State).rxAny = true := by decide

theorem witness_TxStateTransitions :
    Inv (packetNext 24#10) ∧ (∃ t, exec .txReady (packetNext 24#10) = .next t) ∧
      Inv (slotNext 512#10) ∧ ∃ t, exec .txReady (slotNext 512#10) = .next t :=
  ⟨inv_packetNext, ⟨_, rfl⟩, inv_slotNext, ⟨_, rfl⟩⟩

theorem witness_TaskModeHasOneWriter :
    (Inv packetReady ∧ packetReady.txnActive = false ∧
      after (exec (.sendtxn 0#8) packetReady) (fun t => t.taskMode != packetReady.taskMode) = true) ∧
    (Inv (waiting 256#10 1#16) ∧ (waiting 256#10 1#16).txnActive = true ∧
      after (exec .tick (waiting 256#10 1#16)) (fun t => t.taskMode == .contSend) = true) :=
  ⟨⟨inv_packetReady, by decide, by decide⟩, inv_waiting, by decide, by decide⟩

theorem witness_NoCancellation :
    Inv inTxn ∧ inTxn.txnActive = true ∧ ∃ t, exec .shiftout inTxn = .next t := ⟨inv_inTxn, by decide, _, rfl⟩

theorem witness_WireIsWhatWasHandedOver :
    Inv breakSent ∧ ∃ t, exec .txDone breakSent = .next t := ⟨inv_breakSent, _, rfl⟩

theorem witness_FrameOnTheWire :
    Inv sending ∧ sending.run = true ∧ sending.txState = .txBreak ∧ sending.ieTxDone = true ∧
      sending.txq = [⟨0x00#8, .brk⟩] := ⟨inv_sending, rfl, rfl, rfl, rfl⟩

theorem witness_PacketOnTheWire :
    Inv packetBreak ∧ packetBreak.run = true ∧ packetBreak.txState = .txPktBreak ∧ packetBreak.ieTxDone = true ∧
      packetBreak.txq = [⟨0x00#8, .brk⟩] := ⟨inv_packetBreak, rfl, rfl, rfl, rfl⟩

theorem witness_SilentWhileReleased :
    (Inv (listening .rxStart 0#10) ∧ (listening .rxStart 0#10).taskMode = .contRecv ∧
      ∃ t, exec (.rxByte 1#8) (listening .rxStart 0#10) = .next t) ∧
    Inv (waiting 256#10 1#16) ∧ (waiting 256#10 1#16).txState = .txWaitResp ∧
      ∃ t, exec .rxBreak (waiting 256#10 1#16) = .next t :=
  ⟨⟨inv_listening, rfl, _, rfl⟩, inv_waiting, rfl, _, rfl⟩

theorem witness_TransactionResolvesWithinTimeout :
    Inv (waiting 256#10 1#16) ∧ (waiting 256#10 1#16).txState = .txWaitResp ∧
      (waiting 256#10 1#16).toCnt.toNat ≤ [Instr.rxBreak, Instr.tick].count .tick :=
  ⟨inv_waiting, rfl, by decide⟩

theorem witness_ResponseIsFinal :
    Inv packetReady ∧ packetReady.txnActive = false ∧
      (∀ i ∈ [Instr.shiftout, Instr.nexttn], ∀ f, i ≠ .sendtxn f) ∧
      after (runInputs ([Instr.shiftout, Instr.nexttn].map encode) packetReady) (fun _ => true) = true := by
  refine ⟨inv_packetReady, by decide, ?_, by decide⟩
  intro i hi f h
  subst h
  revert hi
  simp

theorem witness_BuildpktRule :
    Inv sending ∧ sending.txnActive = false ∧
      ((List.replicate 231 0#8).length ≤ 231 ∧
        (List.replicate 257 [Instr.shiftout, Instr.tick]).length = 26 + (List.replicate 231 0#8).length ∧
        ∀ l ∈ List.replicate 257 [Instr.shiftout, Instr.tick], ∀ i ∈ l, isCommand i = false) ∧
      (([] : List Byte).length ≤ 231 ∧ (List.replicate 26 ([] : List Instr)).length = 26 + ([] : List Byte).length ∧
        ∀ l ∈ List.replicate 26 ([] : List Instr), l = []) := by
  refine ⟨inv_sending, by decide, ⟨by rw [List.length_replicate],
    by rw [List.length_replicate, List.length_replicate], fun l hl i hi => ?_⟩, by decide, by simp, fun l hl => ?_⟩
  · obtain ⟨-, rfl⟩ := List.mem_replicate.1 hl
    simp only [List.mem_cons, List.not_mem_nil, or_false] at hi
    rcases hi with rfl | rfl <;> rfl
  · exact (List.mem_replicate.1 hl).2

/-! ### Infinite runs: a transaction that times out, calls that are rejected, frames without end -/

/-- What the last tick of an unanswered wait leaves. -/
def timedOut : State :=
  { waiting 256#10 1#16 with
    toCnt := 0#16, result := .noReply, rxPktLen := 256#9, ieRx := false, dir := true, taskMode := .contSend,
    txState := .txIdle }

/-- The wait, then the tick that ends it, then ticks without effect. -/
def timeoutRun : Nat → State
  | 0 => waiting 256#10 1#16
  | _ + 1 => timedOut

theorem witness_FairRunsComplete_transaction :
    IsRun timeoutRun (fun _ => encode .tick) ∧ FairAgents timeoutRun (fun _ => encode .tick) ∧ Inv (timeoutRun 0) ∧
      (timeoutRun 0).txnActive = true := by
  refine ⟨fun n => ?_, ⟨fun n h => ?_, fun n h => ?_, fun n h => ?_, fun n _ => ⟨n, Nat.le_refl n, rfl⟩⟩,
    inv_waiting, by decide⟩
  · cases n <;> rfl
  · cases n with
    | zero => exact absurd h (by decide)
    | succ n => exact absurd h (show ¬timedOut.shiftoutEnabled = true by decide)
  · exact absurd (h (n + 1) (Nat.le_succ n)) (show ¬timedOut.txReadyEnabled = true by decide)
  · exact absurd (h (n + 1) (Nat.le_succ n)) (show ¬timedOut.txDoneEnabled = true by decide)

/-- The commands of the calls R252 to R258. -/
def callCommand : Instr → Bool
  | .nexttn | .pktwr _ _ | .sendtxn _ | .rdstatus | .rddisc _ | .pktrd _ => true
  | _ => false

/-- A program that issues no other command. -/
def Calls {α : Type} : HostProg α → Prop
  | .done _ => True
  | .rejected _ => True
  | .issue i k => callCommand i = true ∧ ∀ w, Calls (k w)
  | .spin _ _ k => ∀ d, Calls (k d)

theorem Calls.bind {α β : Type} {p : HostProg α} {f : α → HostProg β} (hp : Calls p) (hf : ∀ a, Calls (f a)) :
    Calls (p.bind f) := by
  induction p with
  | done a => exact hf a
  | rejected c => trivial
  | issue i k ih => exact ⟨hp.1, fun w => ih w (hp.2 w)⟩
  | spin stop max k ih => exact fun d => ih d (hp d)

theorem calls_command {i : Instr} (h : callCommand i = true) : Calls (command i) :=
  ⟨h, fun w => by dsimp only; split <;> trivial⟩

theorem calls_commands (l : List Instr) (h : ∀ i ∈ l, callCommand i = true) : Calls (commands l) := by
  induction l with
  | nil => trivial
  | cons i l ih =>
    exact (calls_command (h i List.mem_cons_self)).bind fun _ => ih fun j hj => h j (List.mem_cons_of_mem _ hj)

theorem calls_pktwrBytes (l : List Byte) (off : Nat) : ∀ i ∈ pktwrBytes off l, callCommand i = true := by
  induction l generalizing off with
  | nil => intro i hi; cases hi
  | cons b l ih =>
    intro i hi
    rcases List.mem_cons.1 hi with rfl | hi
    · rfl
    · exact ih _ i hi

theorem calls_buildpkt (L : Config.Layout) (h : Config.Header) (dest : Uid) (cc : Byte) (pid : Half)
    (pd : List Byte) : Calls (buildpkt L h dest cc pid pd) :=
  (calls_command rfl).bind fun _ =>
    (calls_commands _ fun i hi => by
      rcases List.mem_append.1 hi with hi | hi
      · obtain ⟨f, -, hi⟩ := List.mem_flatMap.1 hi
        exact calls_pktwrBytes _ _ i hi
      · exact calls_pktwrBytes _ _ i hi).bind fun _ => trivial

theorem calls_sendwait (max : Config.SpinMax) (f : Byte) : Calls (sendwait max f) :=
  (calls_command rfl).bind fun _ => fun _ => trivial

theorem calls_readDisc (k n acc : Nat) : Calls (readDisc k n acc) := by
  induction n generalizing k acc with
  | zero => trivial
  | succ n ih => exact (calls_command rfl).bind fun _ => ih _ _

theorem calls_readPkt (k n : Nat) : Calls (readPkt k n) := by
  induction n generalizing k with
  | zero => trivial
  | succ n ih => exact (calls_command rfl).bind fun _ => (ih _).bind fun _ => trivial

theorem calls_discover (L : Config.Layout) (h : Config.Header) (max : Config.SpinMax) (lo hi : Uid) (r : Byte) :
    Calls (discover L h max lo hi r) := by
  refine (calls_buildpkt _ _ _ _ _ _).bind fun _ => (calls_sendwait _ _).bind fun x => ?_
  split
  · trivial
  · refine (calls_command rfl).bind fun d => ?_
    split
    · exact (calls_readDisc _ _ _).bind fun _ => trivial
    · split <;> trivial

theorem calls_get (L : Config.Layout) (h : Config.Header) (max : Config.SpinMax) (uid : Uid) (pid : Half) (r : Byte) :
    Calls (get L h max uid pid r) := by
  refine (calls_buildpkt _ _ _ _ _ _).bind fun _ => (calls_sendwait _ _).bind fun x => ?_
  split
  · exact (calls_command rfl).bind fun _ => (calls_readPkt _ _).bind fun _ => trivial
  · trivial

/-- A state of continuous receive, in which every call is rejected at its `SENDTXN` and no transmit event comes. -/
structure Deaf (s : State) : Prop where
  mode : s.taskMode = .contRecv
  idle : s.txState = .txIdle
  empty : s.txq = []
  quiet : s.ieTxRdy = false ∧ s.ieTxDone = false

theorem deaf_exec {s : State} (h : Deaf s) {i : Instr} (hi : callCommand i = true ∨ i = .tick) :
    ∃ t, exec i s = .next t ∧ Deaf t := by
  have ha : s.txnActive = false := by simp [State.txnActive, h.mode]
  rcases hi with hi | rfl
  · cases i <;> first | (cases hi; done) | skip
    · simp only [exec, execPktwr, ha, pktOffsetInRange_iff]
      split
      · contradiction
      · split
        · rename_i hb
          rw [store_inside (show _ < 256 from hb), andThen_next]
          exact ⟨_, rfl, h.mode, h.idle, h.empty, h.quiet⟩
        · exact ⟨_, rfl, h.mode, h.idle, h.empty, h.quiet⟩
    · simp only [exec, execPktrd, pktOffsetInRange_iff]
      split
      · rename_i hb
        rw [load_inside (show _ < 256 from hb)]
        exact ⟨_, rfl, h.mode, h.idle, h.empty, h.quiet⟩
      · exact ⟨_, rfl, h.mode, h.idle, h.empty, h.quiet⟩
    · exact ⟨_, rfl, h.mode, h.idle, h.empty, h.quiet⟩
    · simp only [exec, execSendtxn, ha, h.mode]
      split
      · exact ⟨_, rfl, h.mode, h.idle, h.empty, h.quiet⟩
      · exact ⟨_, rfl, h.mode, h.idle, h.empty, h.quiet⟩
    · simp only [exec, execRddisc]
      split <;> exact ⟨_, rfl, h.mode, h.idle, h.empty, h.quiet⟩
    · exact ⟨_, rfl, h.mode, h.idle, h.empty, h.quiet⟩
  · refine ⟨s, ?_, h⟩
    have : tickArm s = .next s := by unfold tickArm; rw [if_neg (by rw [h.idle]; decide)]
    simp only [exec, execTick, deliver, this, ite_self]

/-- The state a step leaves, the old one when it stops. -/
def nextOr (r : Res) (s : State) : State :=
  match r with
  | .next t => t
  | .fault _ => s
  | .refused _ => s

/-- The inputs of the call run: the program's commands, then ticks. -/
def callInput {α : Type} (p : HostProg α) : Input := encode (p.nextCommand.getD .tick)

/-- A call on an engine in continuous receive, one command after another. -/
def callRun {α : Type} (p : HostProg α) : Nat → State × HostProg α
  | 0 => (listening .rxStart 0#10, p)
  | n + 1 =>
    let r := callRun p n
    let t := nextOr (runInput (callInput r.2) r.1) r.1
    (t, r.2.answered (t.resp.getD 0))

theorem call_word {i : Instr} (h : callCommand i = true) :
    ∃ w j, encode i = .host w ∧ decode (encode i) = .ok j ∧ callCommand j = true := by
  cases i <;> first | (cases h; done) | exact ⟨_, _, rfl, (decode_cmdWord _ _ _).trans rfl, rfl⟩

theorem callRun_inv {α : Type} {p : HostProg α} (hp : Calls p) (n : Nat) :
    Deaf (callRun p n).1 ∧ Calls (callRun p n).2 ∧
      runInput (callInput (callRun p n).2) (callRun p n).1 = .next (callRun p (n + 1)).1 := by
  have one : ∀ (q : HostProg α) (s : State), Deaf s → Calls q →
      ∃ t, runInput (callInput q) s = .next t ∧ Deaf t := fun q s hs hq => by
    have key : ∀ i, callCommand i = true → ∃ t, runInput (encode i) s = .next t ∧ Deaf t := fun i hi => by
      obtain ⟨w, j, -, hj, hc⟩ := call_word hi
      obtain ⟨t, ht, hd⟩ := deaf_exec hs (.inl hc)
      exact ⟨t, by rw [runInput_ok hj, ht], hd⟩
    cases q with
    | done a => exact deaf_exec hs (.inr rfl)
    | rejected c => exact deaf_exec hs (.inr rfl)
    | issue i k => exact key i hq.1
    | spin stop max k => exact key .rdstatus rfl
  have answer : ∀ (q : HostProg α) (w : RespWord), Calls q → Calls (q.answered w) := fun q w hq => by
    cases q with
    | done a => trivial
    | rejected c => trivial
    | issue i k => exact hq.2 w
    | spin stop max k =>
      show Calls (if _ then _ else if _ then _ else _)
      split
      · trivial
      · split
        · exact hq _
        · exact hq
  have main : Deaf (callRun p n).1 ∧ Calls (callRun p n).2 := by
    induction n with
    | zero => exact ⟨⟨rfl, rfl, rfl, rfl, rfl⟩, hp⟩
    | succ n ih =>
      obtain ⟨t, ht, hd⟩ := one _ _ ih.1 ih.2
      refine ⟨?_, answer _ _ ih.2⟩
      show Deaf (nextOr _ _)
      rw [ht]; exact hd
  refine ⟨main.1, main.2, ?_⟩
  obtain ⟨t, ht, -⟩ := one _ _ main.1 main.2
  show _ = Host.Outcome.next (nextOr _ _)
  rw [ht]; rfl

/-- Every call has a fair run from a state of the invariant. -/
theorem witness_fair_call {α : Type} {p : HostProg α} (hp : Calls p) :
    let σ := fun n => (callRun p n).1
    let π := fun n => (callRun p n).2
    let x := fun n => callInput (callRun p n).2
    IsHostRun π σ x ∧ FairAgents σ x ∧ FairHost π x ∧ Inv (σ 0) ∧ π 0 = p := by
  intro σ π x
  have hinv := callRun_inv hp
  have host : ∀ n i, (π n).nextCommand = some i → ∃ w, encode i = .host w ∧ x n = .host w := fun n i hi => by
    have hc : callCommand i = true := by
      have := (hinv n).2.1
      cases hq : (callRun p n).2 <;> rw [show π n = _ from hq] at hi <;> rw [hq] at this
      · cases hi
      · cases hi
      · cases hi; exact this.1
      · cases hi; rfl
    obtain ⟨w, j, hw, -, -⟩ := call_word hc
    exact ⟨w, hw, by show encode ((π n).nextCommand.getD .tick) = _; rw [hi]; exact hw⟩
  refine ⟨⟨fun n => (hinv n).2.2, fun n => ?_⟩, ⟨fun n h => ?_, fun n h => ?_, fun n h => ?_, fun n h => ?_⟩,
    fun n h => ?_, inv_listening, rfl⟩
  · cases hi : (π n).nextCommand with
    | some i =>
      obtain ⟨w, hw, hx⟩ := host n i hi
      exact .inl ⟨i, w, hi, hw, hx, rfl⟩
    | none =>
      refine .inr ⟨evWord 0x05#8 0, by show encode ((π n).nextCommand.getD .tick) = _; rw [hi]; rfl, ?_⟩
      show (π n).answered _ = π n
      cases hq : π n <;> rw [hq] at hi <;> first | rfl | cases hi
  · rw [State.shiftoutEnabled, (hinv n).1.empty] at h; cases h
  · have := h n (Nat.le_refl n)
    rw [State.txReadyEnabled, (hinv n).1.quiet.1, Bool.and_false] at this; cases this
  · have := h n (Nat.le_refl n)
    rw [State.txDoneEnabled, (hinv n).1.quiet.2, Bool.and_false] at this; cases this
  · have := of_decide_eq_true (h n (Nat.le_refl n))
    rw [(hinv n).1.idle] at this; cases this
  · obtain ⟨i, hi⟩ := (ended_eq_none_iff (π n)).1 h
    obtain ⟨w, -, hx⟩ := host n i hi
    exact ⟨n, w, Nat.le_refl n, hx⟩

theorem witness_FairRunsComplete_calls :
    Calls (buildpkt Config.layout headerT 0#48 0#8 0#16 []) ∧ Calls (sendwait .unbounded 0#8) ∧
      Calls (discover Config.layout headerT .unbounded 0#48 1#48 0#8) ∧
      Calls (mute Config.layout headerT .unbounded 0#48 0#8) ∧ Calls (unmute Config.layout headerT .unbounded 0#8) ∧
      Calls (get Config.layout headerT .unbounded 0#48 0#16 0#8) ∧
      Calls (set Config.layout headerT (.finite 0) 0#48 0#16 [] 0#8) :=
  ⟨calls_buildpkt _ _ _ _ _ _, calls_sendwait _ _, calls_discover _ _ _ _ _ _,
    (calls_buildpkt _ _ _ _ _ _).bind fun _ => calls_sendwait _ _,
    (calls_buildpkt _ _ _ _ _ _).bind fun _ => calls_sendwait _ _, calls_get _ _ _ _ _ _,
    (calls_buildpkt _ _ _ _ _ _).bind fun _ => calls_sendwait _ _⟩

/-- A state of continuous send in which the transmit events and `RDSTATUS` can always be taken. -/
structure Framing (s : State) : Prop where
  mode : s.taskMode = .contSend
  count : s.slotCount = 512#10
  drained : s.txc = true → s.txq = []
  phase : s.txState = .txIdle ∨ s.txState = .txBreak ∨ s.txState = .txStart ∨ s.txState = .txData

theorem framing_put {s : State} (h : Framing s) (b : Byte) {x : State → Res} (hx : s.txq.length < 2)
    (k : ∀ u, Framing u → ∃ t, x u = .next t ∧ Framing t) : ∃ t, andThen (uartPut b s) x = .next t ∧ Framing t := by
  rw [uartPut_room hx, andThen_next]
  exact k _ ⟨h.mode, h.count, fun hc => Bool.noConfusion hc, h.phase⟩

theorem framing_nextSlot {s : State} (h : Framing s) (hx : s.txq.length < 2) :
    ∃ t, nextSlot s = .next t ∧ Framing t := by
  have close : ∀ u : State, Framing u → Framing (endOfSlots u) := fun u hu => by
    unfold endOfSlots
    split
    · exact ⟨hu.mode, hu.count, hu.drained, .inl rfl⟩
    · exact hu
  unfold nextSlot
  split
  · rename_i hi
    rw [h.count] at hi
    rw [load_inside (show s.txIdx.toNat < 513 from Nat.lt_succ_of_le hi)]
    exact framing_put h _ hx fun u hu => ⟨_, rfl, close _ ⟨hu.mode, hu.count, hu.drained, hu.phase⟩⟩
  · exact ⟨_, rfl, close s h⟩

theorem framing_exec {s : State} (h : Framing s) (i : Instr)
    (hi : i = .shiftout ∨ i = .txReady ∨ i = .txDone ∨ i = .rdstatus) : ∃ t, exec i s = .next t ∧ Framing t := by
  rcases hi with rfl | rfl | rfl | rfl
  · simp only [exec, execShiftout, deliver, shiftoutArm]
    split
    · split
      · exact ⟨s, rfl, h⟩
      · rename_i p rest hq
        refine ⟨_, rfl, h.mode, h.count, fun hc => ?_, h.phase⟩
        rcases (Bool.or_eq_true _ _).mp hc with hc | hc
        · rw [h.drained hc] at hq; cases hq
        · exact List.isEmpty_iff.1 hc
    · exact ⟨s, rfl, h⟩
  · simp only [exec, execTxReady, deliver]
    split
    · rename_i he
      simp only [State.txReadyEnabled, Bool.and_eq_true, decide_eq_true_eq] at he
      rcases h.phase with hp | hp | hp | hp
      · exact ⟨s, by unfold txReadyArm; rw [hp], h⟩
      · exact ⟨s, by unfold txReadyArm; rw [hp], h⟩
      · rw [txReadyArm_slot (.inl hp)]
        exact framing_nextSlot ⟨h.mode, h.count, h.drained, .inr (.inr (.inr rfl))⟩ he.2
      · rw [txReadyArm_slot (.inr hp)]
        exact framing_nextSlot ⟨h.mode, h.count, h.drained, .inr (.inr (.inr rfl))⟩ he.2
    · exact ⟨s, rfl, h⟩
  · simp only [exec, execTxDone, deliver]
    split
    · rename_i he
      simp only [State.txDoneEnabled, Bool.and_eq_true] at he
      have hx : s.txq = [] := h.drained he.2
      have h' : Framing { s with txc := false } := ⟨h.mode, h.count, fun hc => Bool.noConfusion hc, h.phase⟩
      rcases h.phase with hp | hp | hp | hp
      · rw [txDoneArm_idle (s := { s with txc := false }) hp, txDoneIdle,
          frameBoundary_contSend (s := { s with txc := false, frameSent := true }) h.mode
            (show s.txq.length < 2 by simp [hx])]
        exact ⟨_, rfl, h.mode, h.count, fun hc => Bool.noConfusion hc, .inr (.inl rfl)⟩
      · rw [txDoneArm_break (s := { s with txc := false }) hp, txDoneBreak]
        exact framing_put (s := { s with txc := false, baudSel := .data })
          ⟨h.mode, h.count, fun hc => Bool.noConfusion hc, h.phase⟩ _ (show s.txq.length < 2 by simp [hx]) fun u hu =>
          ⟨{ u with txIdx := 1#10, txState := .txStart, ieTxDone := false, ieTxRdy := true }, rfl, hu.mode, hu.count,
            hu.drained, .inr (.inr (.inl rfl))⟩
      · exact ⟨_, by unfold txDoneArm; rw [hp], h'⟩
      · exact ⟨_, by unfold txDoneArm; rw [hp], h'⟩
    · exact ⟨s, rfl, h⟩
  · exact ⟨_, rfl, h.mode, h.count, h.drained, h.phase⟩

/-- The inputs of the frame run: the transmit events in turn, every fourth the program's next command. -/
def framesInput (p : HostProg Bool) (n : Nat) : Instr :=
  match n % 4 with
  | 0 => .shiftout
  | 1 => .txReady
  | 2 => .txDone
  | _ => p.nextCommand.getD .shiftout

/-- Frames without end from `STARTOUT` on, under a `WAITFRAME`. -/
def framesRun (max : Config.SpinMax) : Nat → State × HostProg Bool
  | 0 => (sending, waitframe max)
  | n + 1 =>
    let r := framesRun max n
    let t := nextOr (exec (framesInput r.2 n) r.1) r.1
    (t, if isCommand (framesInput r.2 n) then r.2.answered (t.resp.getD 0) else r.2)

/-- What is left of a `WAITFRAME`. -/
def WaitLeft (p : HostProg Bool) : Prop :=
  (∃ max, p = waitframe max) ∨ (∃ b, p = .done b) ∨ ∃ c, p = .rejected c

theorem waitLeft_input {p : HostProg Bool} (h : WaitLeft p) (n : Nat) :
    framesInput p n = .shiftout ∨ framesInput p n = .txReady ∨ framesInput p n = .txDone ∨
      framesInput p n = .rdstatus ∧ p.nextCommand = some .rdstatus := by
  unfold framesInput
  split
  · exact .inl rfl
  · exact .inr (.inl rfl)
  · exact .inr (.inr (.inl rfl))
  · rcases h with ⟨max, rfl⟩ | ⟨b, rfl⟩ | ⟨c, rfl⟩
    · exact .inr (.inr (.inr ⟨rfl, rfl⟩))
    · exact .inl rfl
    · exact .inl rfl

theorem waitLeft_answered {p : HostProg Bool} (h : WaitLeft p) (w : RespWord) : WaitLeft (p.answered w) := by
  rcases h with ⟨max, rfl⟩ | ⟨b, rfl⟩ | ⟨c, rfl⟩
  · show WaitLeft (if _ then _ else if _ then _ else _)
    split
    · exact .inr (.inr ⟨_, rfl⟩)
    · split
      · exact .inr (.inl ⟨_, rfl⟩)
      · exact .inl ⟨_, rfl⟩
  · exact .inr (.inl ⟨b, rfl⟩)
  · exact .inr (.inr ⟨c, rfl⟩)

theorem framesRun_inv (max : Config.SpinMax) (n : Nat) :
    Framing (framesRun max n).1 ∧ WaitLeft (framesRun max n).2 ∧
      exec (framesInput (framesRun max n).2 n) (framesRun max n).1 = .next (framesRun max (n + 1)).1 := by
  have main : Framing (framesRun max n).1 ∧ WaitLeft (framesRun max n).2 := by
    induction n with
    | zero => exact ⟨⟨rfl, show sending.slotCount = 512#10 by decide, fun h => Bool.noConfusion h, .inr (.inl rfl)⟩, .inl ⟨max, rfl⟩⟩
    | succ n ih =>
      obtain ⟨t, ht, hf⟩ := framing_exec ih.1 (framesInput (framesRun max n).2 n) (by
        rcases waitLeft_input ih.2 n with h | h | h | ⟨h, _⟩ <;> simp [h])
      refine ⟨?_, ?_⟩
      · show Framing (nextOr _ _)
        rw [ht]; exact hf
      · show WaitLeft (if _ then _ else _)
        split
        · exact waitLeft_answered ih.2 _
        · exact ih.2
  refine ⟨main.1, main.2, ?_⟩
  obtain ⟨t, ht, -⟩ := framing_exec main.1 (framesInput (framesRun max n).2 n) (by
    rcases waitLeft_input main.2 n with h | h | h | ⟨h, _⟩ <;> simp [h])
  show _ = Host.Outcome.next (nextOr _ _)
  rw [ht]; rfl

theorem framesRun_prog (max : Config.SpinMax) (n : Nat) :
    (framesRun max (n + 1)).2 =
      if isCommand (framesInput (framesRun max n).2 n) then
        (framesRun max n).2.answered ((framesRun max (n + 1)).1.resp.getD 0)
      else (framesRun max n).2 := rfl

theorem witness_FairRunsComplete_frames (max : Config.SpinMax) :
    let σ := fun n => (framesRun max n).1
    let π := fun n => (framesRun max n).2
    let x := fun n => encode (framesInput (framesRun max n).2 n)
    IsHostRun π σ x ∧ FairAgents σ x ∧ FairHost π x ∧ Inv (σ 0) ∧ (σ 0).sendsFrames ∧ NotStoppedFrom σ x 0 ∧
      π 0 = waitframe max := by
  intro σ π x
  have hinv := framesRun_inv max
  have hdec : ∀ n, decode (x n) = .ok (framesInput (π n) n) := fun n => by
    show decode (encode (framesInput (π n) n)) = _
    rcases waitLeft_input (hinv n).2.1 n with h | h | h | ⟨h, -⟩
    · rw [show framesInput (π n) n = _ from h]; decide
    · rw [show framesInput (π n) n = _ from h]; decide
    · rw [show framesInput (π n) n = _ from h]; decide
    · rw [show framesInput (π n) n = _ from h]; decide
  have taken : ∀ (k : Nat) (i : Instr), (∀ n p, n % 4 = k → framesInput p n = i) → k < 4 → ∀ n, TakenAfter x i n :=
    fun k i hk hlt n => ⟨4 * n + k, by omega, by rw [hdec, hk _ _ (by omega)]⟩
  refine ⟨⟨fun n => ?_, fun n => ?_⟩, ⟨fun n _ => ?_, fun n _ => ?_, fun n _ => ?_, fun n h => ?_⟩, fun n h => ?_,
    inv_sending, ⟨rfl, .inr ⟨rfl, show sending.quiescent = false by decide⟩⟩, fun m i _ hd hi => ?_, rfl⟩
  · show runInput (x n) (σ n) = _
    rw [runInput_ok (hdec n)]
    exact (hinv n).2.2
  · have hp : π (n + 1) = _ := framesRun_prog max n
    rcases waitLeft_input (hinv n).2.1 n with h | h | h | ⟨h, hn⟩ <;> rw [h] at hp
    · exact .inr ⟨_, congrArg encode h, hp⟩
    · exact .inr ⟨_, congrArg encode h, hp⟩
    · exact .inr ⟨_, congrArg encode h, hp⟩
    · exact .inl ⟨_, _, hn, rfl, congrArg encode h, hp⟩
  · exact taken 0 _ (fun n p hn => by simp [framesInput, hn]) (by omega) n
  · exact taken 1 _ (fun n p hn => by simp [framesInput, hn]) (by omega) n
  · exact taken 2 _ (fun n p hn => by simp [framesInput, hn]) (by omega) n
  · have := of_decide_eq_true (h n (Nat.le_refl n))
    rcases (hinv n).1.phase with hp | hp | hp | hp <;> rw [show (σ n).txState = _ from hp] at this <;> cases this
  · by_contra hno
    have same : ∀ d, π (n + d) = π n := fun d => by
      induction d with
      | zero => rfl
      | succ d ih =>
        have hp : π (n + d + 1) = _ := framesRun_prog max (n + d)
        rcases waitLeft_input (hinv (n + d)).2.1 (n + d) with e | e | e | ⟨e, -⟩
        · rw [e] at hp; exact hp.trans ih
        · rw [e] at hp; exact hp.trans ih
        · rw [e] at hp; exact hp.trans ih
        · exact absurd ⟨n + d, _, Nat.le_add_right n d, congrArg encode e⟩ hno
    refine hno ⟨n + (3 * n + 3), _, Nat.le_add_right _ _, congrArg encode (a₂ := .rdstatus) ?_⟩
    have e : π (n + (3 * n + 3)) = π n := same _
    have hm : (n + (3 * n + 3)) % 4 = 3 := by omega
    show framesInput (π _) _ = _
    rw [e]
    simp only [framesInput, hm]
    rcases (hinv n).2.1 with ⟨k, hk⟩ | ⟨b, hb⟩ | ⟨c, hc⟩
    · rw [show π n = _ from hk]; rfl
    · rw [show π n = _ from hb] at h; cases h
    · rw [show π n = _ from hc] at h; cases h
  · rw [hdec] at hd
    cases hd
    rcases waitLeft_input (hinv m).2.1 m with h | h | h | ⟨h, -⟩ <;>
      rw [show framesInput (π m) m = _ from h] at hi <;> rcases hi with hi | ⟨f, -, hi⟩ <;> cases hi

end Sys2Proof.Tests
end

section
/-! A step runs the decoded instruction (R7, R171, R183), and so does a table word placed for the fetch (log 1, 16). -/

namespace Sys2Proof.Machine

/-- A table word decodes exactly when the input it makes does; why it does not is forgotten. -/
theorem decodeTableWord_eq_some_iff {nbits w : Nat} {i : Instr} :
    decodeTableWord nbits w = some i ↔ decode (tableInput nbits w) = .ok i := by
  cases h : decode (tableInput nbits w) with
  | ok j => simp [decodeTableWord, h]
  | error r => simp [decodeTableWord, h]

/-- An input placed for the fetch is what the next step runs, on the state it was placed in. -/
theorem step_placeInput (x : Input) (s : State) : step (placeInput x s) = runInput x s :=
  step_cons rfl

/-- Settles O5: the step takes the head off the schedule (`step_cons`, `step_placeInput`) and a decoded input runs its
instruction (`runInput_ok`). -/
theorem stepRunsDecodedInstruction : Obligations.StepRunsDecodedInstruction := by
  refine ⟨fun s x rest i hsched hdec => ?_, fun s nbits w i hword => ?_⟩
  · rw [step_cons hsched, runInput_ok hdec]
  · have hdec : decode (tableInput nbits w) = .ok i := decodeTableWord_eq_some_iff.mp hword
    rw [State.withFetchWord, step_placeInput, runInput_ok hdec]

end Sys2Proof.Machine
end

section
/-! The state after reset (R49) and the three named predicates (R50). -/

namespace Sys2Proof.Machine

theorem txnActive_iff (s : State) :
    s.txnActive = true ↔ s.taskMode = .sendTxn ∨ s.taskMode = .sendTxnResume := by
  cases h : s.taskMode <;> simp [State.txnActive, h]

theorem quiescent_iff (s : State) :
    s.quiescent = true ↔
      s.txState = .txIdle ∧ s.ieTxRdy = false ∧ s.ieTxDone = false ∧ s.ieRx = false := by
  simp [State.quiescent, and_assoc]

theorem startable_iff (s : State) :
    s.startable = true ↔
      ¬s.txnActive = true ∧ (s.run = false ∨ s.quiescent = true) ∧ s.txq = [] := by
  simp [State.startable, and_assoc]

/-- No buffer lists a byte after reset, so every index reads as an unlisted one (R49). -/
theorem reset_byteAt (b : Buf) (i : Nat) : State.reset.byteAt b i = 0x00#8 := by
  cases b <;> rfl

/-- Settles O6: the fields as `State.reset` gives them, the buffers by `reset_byteAt`. -/
theorem resetValues : Obligations.ResetValues := by
  refine ⟨?registers, ?counters, ?flags, reset_byteAt, rfl, rfl, rfl, ?status⟩
  all_goals decide

/-- Settles O7: `SLOTCOUNT` lies on the ceiling, above any floor `SLOTS_MIN` may be; the buffers are empty; every
other clause is about fields whose values are known. -/
theorem resetMeetsInvariant : Obligations.ResetMeetsInvariant := by
  constructor
  case slotFloor => exact slotsMin_bounds.2
  case memory => exact fun b => ⟨reset_memory_wf b, by cases b <;> rfl⟩
  all_goals decide

/-- Settles O12: each predicate is the conjunction of the register tests that R50 names. -/
theorem namedPredicates : Obligations.NamedPredicates :=
  fun s => ⟨txnActive_iff s, quiescent_iff s, startable_iff s⟩

end Sys2Proof.Machine
end

section
/-! `BAUDSEL` changes only with nothing in flight (R35, R51 I5). -/

namespace Sys2Proof.Machine

/-- A byte goes out at another baud only as the first after a break or as a break, and `TXQ` is empty before both. -/
theorem Effect.baudSel_eq_or_txq_nil {i : Instr} {s t : State} (hI : Inv s) (e : Effect s i t) :
    t.baudSel = s.baudSel ∨ s.txq = [] := by
  cases e with
  | startout _ _ hx => exact .inr hx
  | sendtxnNow _ _ _ _ _ _ hx => exact .inr hx
  | frameEnd _ _ _ hx => exact .inr hx
  | packetStart _ _ _ hx => exact .inr hx
  | startCode _ _ hx => exact .inr hx
  | packetFirst _ _ hx => exact .inr hx
  | resolvedResume _ u _ _ _ _ _ _ _ _ _ _ _ hw =>
    obtain ⟨_, _, hx, _⟩ := hI.waiting hw
    exact .inr hx
  | resolvedQuiet _ u _ _ _ _ _ _ _ _ _ _ _ _ _ _ hu => exact .inl (by rw [hu]; rfl)
  | _ => exact .inl rfl

/-- Settles O11: over the outcomes of `exec_effect`, every one that writes `BAUDSEL` has found `TXQ` empty. -/
theorem baudChangesOnlyWhenQueueEmpty : Obligations.BaudChangesOnlyWhenQueueEmpty :=
  fun _ _ _ hI h hne => ((exec_effect hI h).baudSel_eq_or_txq_nil hI).resolve_left hne

end Sys2Proof.Machine
end

section
/-! What an instruction does to `CMD_ERR` and to the response word, in every state (R39, R101, R170): an event keeps
both, a command rejects or answers. -/

namespace Sys2Proof.Machine

/-! ## No event touches `CMD_ERR` or the response word -/

/-- What a next state of `r` keeps of `s` when the host takes no part: `CMD_ERR` and the response word. -/
def KeepsHost (s : State) (r : Res) : Prop := ∀ t, r = .next t → t.cmdErr = s.cmdErr ∧ t.resp = s.resp

theorem keepsHost_next {s t : State} (he : t.cmdErr = s.cmdErr) (hr : t.resp = s.resp) : KeepsHost s (.next t) := by
  rintro _ ⟨⟩
  exact ⟨he, hr⟩

theorem keepsHost_fault (s : State) (f : Fault) : KeepsHost s (.fault f) := by
  rintro t ⟨⟩

theorem KeepsHost.of_eq {s u : State} {r : Res} (h : KeepsHost u r) (he : u.cmdErr = s.cmdErr)
    (hr : u.resp = s.resp) : KeepsHost s r := by
  unfold KeepsHost at h ⊢
  rwa [← he, ← hr]

theorem keepsHost_andThen {s : State} {r : Res} {k : State → Res} (hr : KeepsHost s r)
    (hk : ∀ u, KeepsHost u (k u)) : KeepsHost s (andThen r k) := by
  intro t h
  obtain ⟨u, hu, ht⟩ := andThen_eq_next h
  obtain ⟨he, hresp⟩ := hr u hu
  exact (hk u).of_eq he hresp t ht

theorem keepsHost_load {b : Buf} {i : Nat} {s : State} {k : Byte → Res} (hk : ∀ x, KeepsHost s (k x)) :
    KeepsHost s (load b i s k) := fun t h => hk _ t (load_eq_next h).2

theorem keepsHost_deliver {e : Bool} {arm : State → Res} {s : State} (h : KeepsHost s (arm s)) :
    KeepsHost s (deliver e arm s) := by
  unfold deliver
  split
  · exact h
  · exact keepsHost_next rfl rfl

theorem keepsHost_uartPut (b : Byte) (s : State) : KeepsHost s (uartPut b s) := by
  intro t h
  obtain ⟨_, rfl⟩ := uartPut_eq_next h
  exact ⟨rfl, rfl⟩

theorem keepsHost_frameBoundary (s : State) : KeepsHost s (frameBoundary s) := by
  have hbreak : ∀ u : State, KeepsHost u (putBreak (setDir true u)) := fun u =>
    (keepsHost_uartPut _ _).of_eq (by simp) (by simp)
  unfold frameBoundary
  split
  · exact keepsHost_andThen ((hbreak _).of_eq rfl rfl) fun u => keepsHost_next rfl rfl
  · exact keepsHost_next rfl rfl
  · exact keepsHost_andThen ((hbreak _).of_eq rfl rfl) fun u => keepsHost_next rfl rfl
  · exact keepsHost_andThen ((hbreak _).of_eq rfl rfl) fun u => keepsHost_next rfl rfl

theorem keepsHost_resolve (v : Verdict) (s : State) : KeepsHost s (resolve v s) := by
  unfold resolve handBack
  split
  · split
    · exact (keepsHost_frameBoundary _).of_eq (by simp) (by simp)
    · exact keepsHost_next (by simp) (by simp)
  · exact keepsHost_fault s _

theorem keepsHost_resolveDiscovery (s : State) : KeepsHost s (resolveDiscovery s) := by
  unfold resolveDiscovery
  split
  · exact keepsHost_resolve _ s
  · split
    · split
      · exact (keepsHost_resolve _ _).of_eq rfl rfl
      · exact keepsHost_resolve _ s
    · exact keepsHost_fault s _

theorem keepsHost_nextSlot (s : State) : KeepsHost s (nextSlot s) := by
  have hend : ∀ u : State, KeepsHost u (.next (endOfSlots u)) := fun u => by
    unfold endOfSlots
    split <;> exact keepsHost_next rfl rfl
  unfold nextSlot
  split
  · exact keepsHost_load fun b => keepsHost_andThen (keepsHost_uartPut b s) fun u => (hend _).of_eq rfl rfl
  · exact hend s

theorem keepsHost_txReadyArm (s : State) : KeepsHost s (txReadyArm s) := by
  unfold txReadyArm
  split
  · exact (keepsHost_nextSlot _).of_eq rfl rfl
  · exact keepsHost_nextSlot s
  · exact keepsHost_load fun b => keepsHost_andThen (keepsHost_uartPut b s) fun u => by
      split <;> exact keepsHost_next rfl rfl
  all_goals exact keepsHost_next rfl rfl

theorem keepsHost_txDoneArm (s : State) : KeepsHost s (txDoneArm s) := by
  unfold txDoneArm
  split
  · exact (keepsHost_frameBoundary _).of_eq rfl rfl
  · exact keepsHost_andThen ((keepsHost_uartPut _ _).of_eq rfl rfl) fun u => keepsHost_next rfl rfl
  · exact keepsHost_andThen ((keepsHost_uartPut _ _).of_eq rfl rfl) fun u => keepsHost_next rfl rfl
  · exact keepsHost_next (by simp) (by simp)
  all_goals exact keepsHost_next rfl rfl

theorem keepsHost_rxByteWait (b : Byte) (s : State) : KeepsHost s (rxByteWait b s) := by
  have hstore : (storeResponseByte b s).cmdErr = s.cmdErr ∧ (storeResponseByte b s).resp = s.resp := by
    unfold storeResponseByte
    split <;> simp
  suffices hfinish : ∀ u : State, KeepsHost u (finishIfComplete u) from (hfinish _).of_eq hstore.1 hstore.2
  intro u
  unfold finishIfComplete
  split
  · split
    · exact keepsHost_resolve _ _
    · exact keepsHost_next rfl rfl
  · split
    · exact keepsHost_resolveDiscovery _
    · exact keepsHost_next rfl rfl

theorem keepsHost_rxByteFrame (b : Byte) (s : State) : KeepsHost s (rxByteFrame b s) := by
  unfold rxByteFrame
  split
  · exact keepsHost_next rfl rfl
  · exact keepsHost_next (by simp) (by simp)
  · unfold rxByteSlot
    split <;> exact keepsHost_next (by simp) (by simp)

theorem keepsHost_rxBreakWait (s : State) : KeepsHost s (rxBreakWait s) := by
  unfold rxBreakWait
  split <;> exact keepsHost_next rfl rfl

theorem keepsHost_rxBreakFrame (s : State) : KeepsHost s (rxBreakFrame s) := by
  unfold rxBreakFrame
  split
  · exact keepsHost_next rfl rfl
  · exact keepsHost_next rfl rfl
  · split
    · exact keepsHost_fault s _
    · exact keepsHost_next (by simp) (by simp)

theorem keepsHost_rxDispatch {wait frame : State → Res} {s : State} (hw : KeepsHost s (wait s))
    (hf : KeepsHost s (frame s)) : KeepsHost s (rxDispatch wait frame s) := by
  unfold rxDispatch
  split
  · exact hw
  · split
    · exact hf
    · exact keepsHost_next rfl rfl

theorem keepsHost_timeout (s : State) : KeepsHost s (timeout s) := by
  unfold timeout
  split
  · exact keepsHost_resolve _ s
  · split
    · exact keepsHost_resolveDiscovery s
    · exact keepsHost_resolve _ s

theorem keepsHost_tickArm (s : State) : KeepsHost s (tickArm s) := by
  unfold tickArm tickWait
  split
  · split
    · exact keepsHost_fault s _
    · split
      · exact (keepsHost_timeout _).of_eq rfl rfl
      · exact keepsHost_next rfl rfl
  · exact keepsHost_next rfl rfl

theorem keepsHost_shiftoutArm (s : State) : KeepsHost s (shiftoutArm s) := by
  unfold shiftoutArm
  split <;> exact keepsHost_next rfl rfl

/-- An event leaves `CMD_ERR` and the response word as they were (R39, R102). -/
theorem exec_event_keepsHost {i : Instr} (hi : isCommand i = false) (s : State) : KeepsHost s (exec i s) := by
  cases i with
  | txReady => exact keepsHost_deliver (keepsHost_txReadyArm s)
  | txDone =>
    exact keepsHost_deliver (arm := fun u => txDoneArm { u with txc := false })
      ((keepsHost_txDoneArm _).of_eq rfl rfl)
  | rxByte b =>
    exact keepsHost_deliver (arm := fun u => rxDispatch (rxByteWait b) (rxByteFrame b) (emit (.rx b) u))
      ((keepsHost_rxDispatch (keepsHost_rxByteWait b _) (keepsHost_rxByteFrame b _)).of_eq rfl rfl)
  | rxBreak =>
    exact keepsHost_deliver (arm := fun u => rxDispatch rxBreakWait rxBreakFrame (emit .rxBrk u))
      ((keepsHost_rxDispatch (keepsHost_rxBreakWait _) (keepsHost_rxBreakFrame _)).of_eq rfl rfl)
  | tick => exact keepsHost_deliver (keepsHost_tickArm s)
  | shiftout => exact keepsHost_deliver (keepsHost_shiftoutArm s)
  | _ => cases hi

/-! ## A command rejects or answers -/

/-- The state a rejected command leaves (R170). -/
def afterReject (c : Cause) (s : State) : State := { s with cmdErr := true, resp := some (rejWord c) }

/-- A next state of `r` is that of a reject, or the response word has `REJ = 0` and `CMD_ERR` is `e` (R101, R170). -/
def Answers (e : Bool) (s : State) (r : Res) : Prop :=
  ∀ t, r = .next t → (∃ c, t = afterReject c s) ∨ t.cmdErr = e ∧ ∃ d, t.resp = some (okWord d)

theorem answers_reject (e : Bool) (s : State) (c : Cause) : Answers e s (reject c s) := by
  rintro _ ⟨⟩
  exact .inl ⟨c, rfl⟩

theorem answers_respond {e : Bool} {s u : State} (d : Data) (h : u.cmdErr = e) : Answers e s (respond d u) := by
  rintro _ ⟨⟩
  exact .inr ⟨h, d, rfl⟩

theorem answers_load {e : Bool} {b : Buf} {i : Nat} {s u : State} {k : Byte → Res} (hk : ∀ x, Answers e s (k x)) :
    Answers e s (load b i u k) := fun t h => hk _ t (load_eq_next h).2

theorem answers_store {s : State} (b : Buf) (i : Nat) (x : Byte) (d : Data) :
    Answers s.cmdErr s (andThen (store b i x s) (respond d)) := by
  intro t h
  obtain ⟨u, hu, ht⟩ := andThen_eq_next h
  obtain ⟨_, rfl⟩ := store_eq_next hu
  exact answers_respond d (by simp) t ht

/-- A command that hands over a break still answers without touching `CMD_ERR` (R160, R166). -/
theorem answers_frameBoundary {s u : State} (d : Data) (h : u.cmdErr = s.cmdErr) :
    Answers s.cmdErr s (andThen (frameBoundary u) (respond d)) := by
  intro t ht
  obtain ⟨v, hv, ht⟩ := andThen_eq_next ht
  obtain ⟨he, _⟩ := keepsHost_frameBoundary u v hv
  exact answers_respond d (he.trans h) t ht

theorem answers_ite {e : Bool} {s : State} {p : Prop} [Decidable p] {a b : Res} (ha : Answers e s a)
    (hb : Answers e s b) : Answers e s (if p then a else b) := by
  split
  · exact ha
  · exact hb

theorem answers_whenStartable {e : Bool} {s : State} {k : Res} (hk : Answers e s k) :
    Answers e s (whenStartable s k) :=
  answers_ite (answers_reject e s _) (answers_ite (answers_reject e s _) (answers_ite (answers_reject e s _) hk))

/-- `CMD_ERR` after an accepted command: only `CLRFLAG` writes it (R39, R168). -/
def cmdErrAccepted (i : Instr) (s : State) : Bool :=
  match i with
  | .clrflag mask => s.cmdErr && !flagBit mask 2
  | _ => s.cmdErr

/-- Every command rejects, or answers with a word of `REJ = 0` (R101, R170, R39). -/
theorem exec_command_answers {i : Instr} (hi : isCommand i = true) (s : State) :
    Answers (cmdErrAccepted i s) s (exec i s) := by
  have hrej : ∀ (e : Bool) (c : Cause), Answers e s (reject c s) := fun e c => answers_reject e s c
  have hresp : ∀ (d : Data) {u : State}, u.cmdErr = s.cmdErr → Answers s.cmdErr s (respond d u) :=
    fun d => answers_respond d
  cases i with
  | setslot a v => exact answers_ite (answers_store _ _ _ _) (hrej _ _)
  | getslot a => exact answers_ite (answers_load fun x => hresp _ rfl) (hrej _ _)
  | rxslot a => exact answers_ite (answers_load fun x => hresp _ rfl) (hrej _ _)
  | setcount a => exact hresp _ rfl
  | getcount => exact hresp _ rfl
  | rdrxlen => exact hresp _ rfl
  | startout => exact answers_whenStartable (answers_frameBoundary _ rfl)
  | startin => exact answers_whenStartable (hresp _ (by simp))
  | stop => exact answers_ite (hrej _ _) (hresp _ rfl)
  | setdirpin a => exact answers_ite (hresp _ rfl) (hresp _ rfl)
  | sethook a f => exact answers_ite (hresp _ rfl) (answers_ite (hresp _ rfl) (hrej _ _))
  | pktwr a v => exact answers_ite (hrej _ _) (answers_ite (answers_store _ _ _ _) (hrej _ _))
  | pktrd a => exact answers_ite (answers_load fun x => hresp _ rfl) (hrej _ _)
  | nexttn => exact hresp _ rfl
  | sendtxn f =>
    exact answers_ite (hrej _ _) <| answers_ite (hrej _ _) <| answers_ite (hrej _ _) <| answers_ite (hrej _ _) <|
      answers_ite (answers_frameBoundary _ rfl) (hresp _ rfl)
  | rdpktlen => exact hresp _ rfl
  | rddisc a => exact answers_ite (hresp _ rfl) (hrej _ _)
  | rdstatus => exact hresp _ rfl
  | clrflag m => exact answers_respond _ rfl
  | _ => cases hi

/-- `STATUS[14]` is `CMD_ERR` (R47). -/
theorem status_bit14 (s : State) : s.status.getLsbD 14 = s.cmdErr := by
  simp [State.status, field, bit]

/-- A reject is not an acceptance (R101). -/
theorem afterReject_accepted (c : Cause) (s : State) : (afterReject c s).accepted = false := by
  simp [State.accepted, afterReject]

theorem accepted_of_okWord {t : State} {d : Data} (h : t.resp = some (okWord d)) : t.accepted = true := by
  simp [State.accepted, h]

/-- Settles O14: a reject sets the flag, an accepted command keeps it or is a `CLRFLAG` (`exec_command_answers`), an
event keeps it (`exec_event_keepsHost`). -/
theorem cmdErrIsSticky : Obligations.CmdErrIsSticky := by
  intro i s t h
  cases hi : isCommand i with
  | false =>
    obtain ⟨he, _⟩ := exec_event_keepsHost hi s t h
    exact ⟨nofun, fun h0 h1 => by simp [he, h0] at h1, fun h1 h0 => by simp [he, h1] at h0, status_bit14 t⟩
  | true =>
    rcases exec_command_answers hi s t h with ⟨c, rfl⟩ | ⟨he, d, hd⟩
    · exact ⟨fun _ _ => rfl, fun _ _ => ⟨rfl, afterReject_accepted c s⟩, fun _ h0 => (nomatch h0), status_bit14 _⟩
    · refine ⟨fun _ hno => ?_, fun h0 h1 => ?_, fun h1 h0 => ?_, status_bit14 t⟩
      · simp [accepted_of_okWord hd] at hno
      · cases i <;> simp [he, cmdErrAccepted, h0] at h1
      · rw [he] at h0
        cases i with
        | clrflag mask => exact ⟨mask, rfl, by simpa [cmdErrAccepted, h1, flagBit] using h0⟩
        | _ => exact absurd (h1.symm.trans h0) nofun

end Sys2Proof.Machine
end

section
/-! The states of the invariant in which a frame or packet goes out: the clauses that remain to be shown when such a
state is reached (R51). -/

namespace Sys2Proof.Machine

/-- The clauses of `Inv` about counts, lengths, buffers and results, which hold whatever the sequencer is doing. -/
structure Standing (s : State) : Prop where
  pending : s.txnActive = true ↔ s.result = .pending
  active : s.txnActive = true → s.run = true ∧ Config.pktMinMl ≤ (s.byteAt .txPkt Config.mlOff).toNat
  slotFloor : Config.slotsMin ≤ s.slotCount.toNat
  slotCeiling : s.slotCount.toNat ≤ Config.slotsMax
  indices : s.txIdx.toNat ≤ 513 ∧ s.rxIdx.toNat ≤ 513
  lengths : s.rxLen.toNat ≤ Config.slotsMax ∧ s.txPktLen.toNat ≤ Config.pktBufLen
    ∧ s.rxPktLen.toNat ≤ Config.pktBufLen
  cause : s.malfCause ≠ .none ↔ s.result = .malformed
  memory : ∀ b, (s.memory b).wf = true ∧ (s.memory b).below b.size = true

theorem Inv.standing {s : State} (h : Inv s) : Standing s := { h with }

/-- A running engine that waits for one of the two transmit events (R183). -/
structure Sending (s : State) : Prop extends Standing s where
  running : s.run = true
  deaf : s.ieRx = false
  driving : s.dir = true
  mode : s.taskMode ≠ .contRecv
  event : s.ieTxRdy = true ∧ s.ieTxDone = false ∧ s.txState.emitting = true ∨
    s.ieTxRdy = false ∧ s.ieTxDone = true ∧ s.txState.draining = true
  breaks : ∀ p ∈ s.txq, p.baud = .brk → p.byte = 0x00#8
  depth : s.txq.length ≤ Config.txqDepth
  complete : s.txc = true → s.txq = []
  held : s.txq ≠ [] ∨ s.txc = true
  firstSlot : s.txState = .txStart → s.txIdx = 1#10
  slotIndex : s.txState = .txData → 1 ≤ s.txIdx.toNat
  packetIndex : s.txState = .txPktData → s.txIdx.toNat < s.txPktLen.toNat
  inPacket : s.txState.inTransaction = true → s.txnActive = true ∧ s.frameSent = false
  dataBaud : s.txState.emitting = true ∨ s.txState = .txPktLast → s.baudSel = .data

theorem draining_of_emitting {x : TxState} (h : x.emitting = true) : x.draining = false := by
  cases x <;> first | rfl | cases h

theorem ne_waitResp_of_emitting {x : TxState} (h : x.emitting = true) : x ≠ .txWaitResp := by
  rintro rfl; cases h

theorem ne_waitResp_of_draining {x : TxState} (h : x.draining = true) : x ≠ .txWaitResp := by
  rintro rfl; cases h

theorem Sending.ne_waitResp {s : State} (h : Sending s) : s.txState ≠ .txWaitResp := by
  rcases h.event with ⟨_, _, he⟩ | ⟨_, _, hd⟩
  · exact ne_waitResp_of_emitting he
  · exact ne_waitResp_of_draining hd

theorem Sending.quiescent {s : State} (h : Sending s) : s.quiescent = false := by
  rcases h.event with ⟨hr, _⟩ | ⟨_, hd, _⟩
  · simp [State.quiescent, hr]
  · simp [State.quiescent, hd]

theorem Sending.ieTxRdy_or_ieTxDone {s : State} (h : Sending s) : s.ieTxRdy = true ∨ s.ieTxDone = true := by
  rcases h.event with ⟨hr, _⟩ | ⟨_, hd, _⟩
  · exact .inl hr
  · exact .inr hd

/-- A sending state meets the invariant: the clauses about listening, waiting, receiving and resting say nothing of it. -/
theorem Sending.inv {s : State} (h : Sending s) : Inv s :=
  { h with
    listening := by simp [h.deaf]
    ready := fun hr => by
      rcases h.event with ⟨_, _, he⟩ | ⟨hr', _⟩
      · exact he
      · simp [hr'] at hr
    done := fun hd => by
      rcases h.event with ⟨_, hd', _⟩ | ⟨_, _, hdr⟩
      · simp [hd'] at hd
      · exact hdr
    waiting := fun hw => absurd hw h.ne_waitResp
    receiving := fun hm => absurd hm h.mode
    startCode := fun hm => absurd hm h.mode
    quiet := fun _ hq => by simp [h.quiescent] at hq
    expecting := fun _ _ => h.ieTxRdy_or_ieTxDone
    underWay := fun _ => h.quiescent
    handed := fun _ => h.held
    listener := by simp [h.deaf]
    stopped := by simp [h.running]
    drives := fun _ _ _ => h.driving
    released := fun _ hm => absurd hm h.mode }

/-- A state of the invariant that waits for a transmit event is a sending state. -/
theorem Inv.sending {s : State} (h : Inv s) (he : s.ieTxRdy = true ∨ s.ieTxDone = true) : Sending s := by
  have hmode : s.taskMode ≠ .contRecv := fun hm => by
    obtain ⟨_, hr, hd, _⟩ := h.receiving hm
    simp [hr, hd] at he
  have hrun : s.run = true := by
    by_contra hr
    obtain ⟨_, hr, hd, _⟩ := h.stopped (by simpa using hr)
    simp [hr, hd] at he
  have hdeaf : s.ieRx = false := by
    by_contra hx
    obtain ⟨hr, hd⟩ := h.listening (by simpa using hx)
    simp [hr, hd] at he
  have hevent : s.ieTxRdy = true ∧ s.ieTxDone = false ∧ s.txState.emitting = true ∨
      s.ieTxRdy = false ∧ s.ieTxDone = true ∧ s.txState.draining = true := by
    cases hr : s.ieTxRdy with
    | true =>
      have hem := h.ready hr
      refine .inl ⟨rfl, ?_, hem⟩
      by_contra hd
      simpa [draining_of_emitting hem] using h.done (by simpa using hd)
    | false =>
      have hd : s.ieTxDone = true := by simpa [hr] using he
      exact .inr ⟨rfl, hd, h.done hd⟩
  have hwait : s.txState ≠ .txWaitResp := by
    rcases hevent with ⟨_, _, hem⟩ | ⟨_, _, hdr⟩
    · exact ne_waitResp_of_emitting hem
    · exact ne_waitResp_of_draining hdr
  exact { h with
    running := hrun, deaf := hdeaf, driving := h.drives hrun hmode hwait, mode := hmode, event := hevent,
    held := h.handed he }

/-- A break handed over with `TXQ` empty before it leaves a sending state (R180). -/
theorem Standing.sending_break {s : State} (h : Standing s) (hrun : s.run = true) (hdeaf : s.ieRx = false)
    (hdir : s.dir = true) (hrdy : s.ieTxRdy = false) (hdone : s.ieTxDone = true) (hq : s.txq = [⟨0x00#8, .brk⟩])
    (hc : s.txc = false)
    (hs : s.txState = .txBreak ∧ s.taskMode ≠ .contRecv ∨
      s.txState = .txPktBreak ∧ s.txnActive = true ∧ s.frameSent = false) : Sending s := by
  have hstate : s.txState = .txBreak ∨ s.txState = .txPktBreak := hs.imp And.left And.left
  have hdrain : s.txState.draining = true := by rcases hstate with hs | hs <;> rw [hs] <;> rfl
  have hno : ∀ x : TxState, x.draining = false → s.txState ≠ x := fun x hx hsx => by simp [hsx, hx] at hdrain
  exact { h with
    running := hrun, deaf := hdeaf, driving := hdir
    mode := by
      rcases hs with ⟨_, hm⟩ | ⟨_, ha, _⟩
      · exact hm
      · intro hm; simp [State.txnActive, hm] at ha
    event := .inr ⟨hrdy, hdone, hdrain⟩
    inPacket := by
      rcases hs with ⟨hs, _⟩ | ⟨_, hactive⟩
      · simp [hs, TxState.inTransaction]
      · exact fun _ => hactive
    breaks := by simp [hq]
    depth := by simp [hq]
    complete := by simp [hc]
    held := by simp [hq]
    firstSlot := fun hst => absurd hst (hno _ rfl)
    slotIndex := fun hst => absurd hst (hno _ rfl)
    packetIndex := fun hst => absurd hst (hno _ rfl)
    dataBaud := by rcases hstate with hs | hs <;> simp [hs, TxState.emitting] }

end Sys2Proof.Machine
end

section
/-! While a response is waited for, a received byte and a tick complete and keep the invariant (R220, R222, R225). -/

namespace Sys2Proof.Machine

/-! ## States at rest -/

/-- An engine that listens to nothing and waits for nothing, stopped or between transactions (R162, R225). -/
structure AtRest (s : State) : Prop extends Standing s where
  idle : s.txState = .txIdle
  unready : s.ieTxRdy = false
  undone : s.ieTxDone = false
  deaf : s.ieRx = false
  inactive : s.txnActive = false
  noFrame : s.rxState = .rxIdle
  breaks : ∀ p ∈ s.txq, p.baud = .brk → p.byte = 0x00#8
  depth : s.txq.length ≤ Config.txqDepth
  complete : s.txc = true → s.txq = []
  receiving : s.taskMode = .contRecv → s.txq = []
  running : s.run = true → s.taskMode = .contSend ∧ s.dir = true ∧ s.txq = []

theorem AtRest.inv {s : State} (h : AtRest s) : Inv s :=
  { h with
    listening := by simp [h.deaf]
    ready := by simp [h.unready]
    done := by simp [h.undone]
    waiting := by simp [h.idle]
    receiving := fun hm => ⟨h.idle, h.unready, h.undone, h.receiving hm⟩
    firstSlot := by simp [h.idle]
    slotIndex := by simp [h.idle]
    packetIndex := by simp [h.idle]
    startCode := by simp [h.noFrame]
    quiet := fun hr _ => (h.running hr).2.2
    inPacket := by simp [h.idle, TxState.inTransaction]
    expecting := by simp [h.idle]
    underWay := by simp [h.inactive]
    handed := by simp [h.unready, h.undone]
    listener := by simp [h.deaf]
    stopped := fun _ => ⟨h.idle, h.unready, h.undone, h.deaf⟩
    drives := fun hr _ _ => (h.running hr).2.1
    released := fun hr hm => by simp [(h.running hr).1] at hm
    dataBaud := by simp [h.idle, TxState.emitting] }

/-! ## States of the wait -/

/-- A response is waited for, whatever the timeout counter holds (R51 I4, R219, R228). -/
structure Waiting (s : State) : Prop extends Standing s where
  state : s.txState = .txWaitResp
  inTransaction : s.txnActive = true ∧ s.frameSent = false
  unready : s.ieTxRdy = false
  undone : s.ieTxDone = false
  hears : s.ieRx = true
  released : s.dir = false
  empty : s.txq = []
  count : s.rxIdx.toNat ≤ Config.pktBufLen

theorem Inv.toWaiting {s : State} (h : Inv s) (hw : s.txState = .txWaitResp) : Waiting s := by
  obtain ⟨hrx, hdir, hq, _, hcount⟩ := h.waiting hw
  obtain ⟨hrdy, hdone⟩ := h.listening hrx
  exact { h.standing with
    state := hw, inTransaction := h.inPacket (by rw [hw]; rfl), unready := hrdy, undone := hdone, hears := hrx,
    released := hdir, empty := hq, count := hcount }

theorem Waiting.mode {s : State} (h : Waiting s) : s.taskMode ≠ .contRecv := fun hm => by
  obtain ⟨ha, _⟩ := h.inTransaction
  simp [State.txnActive, hm] at ha

/-- A wait whose timeout has not run out meets the invariant. -/
theorem Waiting.inv {s : State} (h : Waiting s) (hcnt : s.toCnt ≠ 0#16) : Inv s := by
  obtain ⟨hrun, _⟩ := h.active h.inTransaction.1
  exact { h with
    listening := fun _ => ⟨h.unready, h.undone⟩
    ready := by simp [h.unready]
    done := by simp [h.undone]
    waiting := fun _ => ⟨h.hears, h.released, h.empty, hcnt, h.count⟩
    breaks := by simp [h.empty]
    receiving := fun hm => absurd hm h.mode
    firstSlot := by simp [h.state]
    slotIndex := by simp [h.state]
    packetIndex := by simp [h.state]
    startCode := fun hm => absurd hm h.mode
    depth := by simp [h.empty]
    complete := fun _ => h.empty
    quiet := fun _ _ => h.empty
    inPacket := fun _ => h.inTransaction
    expecting := fun _ hw => absurd h.state hw
    underWay := fun _ => by simp [State.quiescent, h.state]
    handed := by simp [h.unready, h.undone]
    listener := fun _ => .inr h.state
    stopped := by simp [hrun]
    drives := fun _ _ hw => absurd h.state hw
    released := fun _ hm => absurd hm h.mode
    dataBaud := by simp [h.state, TxState.emitting] }

/-! ## Resolve -/

/-- An outcome of R272: not `PENDING`, and with a cause exactly when malformed (R41). -/
def Verdict.final (v : Verdict) : Prop := v.result ≠ .pending ∧ (v.cause ≠ .none ↔ v.result = .malformed)

theorem verdictValid_final : verdictValid.final := by simp [Verdict.final, verdictValid]

theorem verdictNoReply_final : verdictNoReply.final := by simp [Verdict.final, verdictNoReply]

theorem verdictMalformed_final {c : MalfCause} (h : c ≠ .none) : (verdictMalformed c).final := by
  simp [Verdict.final, verdictMalformed, h]

theorem validate_final (s : State) : (validate s).final := by
  unfold validate
  split
  · exact verdictMalformed_final (by decide)
  split
  · exact verdictMalformed_final (by decide)
  split
  · exact verdictMalformed_final (by decide)
  split
  · exact verdictMalformed_final (by decide)
  · exact verdictValid_final

theorem recordOutcome_memory (v : Verdict) (n : BitVec 9) (s : State) (b : Buf) :
    (recordOutcome v n s).memory b = s.memory b := by
  cases b <;> simp [State.memory]

/-- The outcome recorded and the task mode handed back: the received length fits `RXPKTLEN` (R225, R30). -/
theorem Waiting.standing_recordOutcome {s : State} {v : Verdict} (h : Waiting s) (hv : v.final) :
    Standing { recordOutcome v (BitVec.ofNat 9 s.rxIdx.toNat) s with taskMode := .contSend } := by
  obtain ⟨hsettled, hcause⟩ := hv
  obtain ⟨hrx, htx, _⟩ := h.lengths
  have hcount : s.rxIdx.toNat ≤ 256 := h.count
  have hlen : (BitVec.ofNat 9 s.rxIdx.toNat).toNat ≤ 256 := by
    rw [BitVec.toNat_ofNat, Nat.mod_eq_of_lt (by omega)]
    exact hcount
  exact {
    pending := by simpa [State.txnActive] using hsettled
    active := by simp [State.txnActive]
    slotFloor := by simpa using h.slotFloor
    slotCeiling := by simpa using h.slotCeiling
    indices := by simpa using h.indices
    lengths := ⟨by simpa using hrx, by simpa using htx, by simpa using hlen⟩
    cause := by simpa using hcause
    memory := fun b => (recordOutcome_memory v (BitVec.ofNat 9 s.rxIdx.toNat) s b).symm ▸ h.memory b }

/-- `Resolve` completes and hands back a state of the invariant: the next frame's break, or rest (R225). -/
theorem Waiting.resolve_next_inv {s : State} {v : Verdict} (h : Waiting s) (hv : v.final) :
    ∃ t, resolve v s = .next t ∧ Inv t := by
  have hstanding := h.standing_recordOutcome hv
  have hcount : s.rxIdx.toNat ≤ 256 := h.count
  obtain ⟨hrun, _⟩ := h.active h.inTransaction.1
  by_cases hm : s.taskMode = .sendTxnResume
  · rw [resolve_resume v (by omega) hm (by simp [h.empty])]
    have hbreak := Standing.sending_break (s := { recordOutcome v (BitVec.ofNat 9 s.rxIdx.toNat) s with
      taskMode := .contSend, dir := true,
      trace := (setDir true (recordOutcome v (BitVec.ofNat 9 s.rxIdx.toNat) s)).trace,
      ieTxRdy := false, baudSel := .brk, txq := s.txq ++ [⟨0x00#8, .brk⟩], txc := false,
      txState := .txBreak, ieTxDone := true }) { hstanding with } (by simpa using hrun) (by simp) rfl rfl rfl
      (by simp [h.empty]) rfl (.inl ⟨rfl, nofun⟩)
    exact ⟨_, rfl, hbreak.inv⟩
  · rw [resolve_quiet v (by omega) hm]
    refine ⟨_, rfl, AtRest.inv { hstanding with
      idle := rfl, unready := rfl, undone := rfl, deaf := ?_, inactive := rfl, noFrame := ?_, breaks := ?_,
      depth := ?_, complete := ?_, receiving := ?_, running := ?_ }⟩
    all_goals simp [h.empty]

/-- `Resolve(DiscResult())` completes too: `DISCUID` is all it writes before (R226). -/
theorem Waiting.resolveDiscovery_next_inv {s : State} (h : Waiting s) :
    ∃ t, resolveDiscovery s = .next t ∧ Inv t := by
  unfold resolveDiscovery
  split
  · exact h.resolve_next_inv verdictNoReply_final
  · rw [if_pos h.count]
    split
    · exact Waiting.resolve_next_inv { h with } verdictValid_final
    · exact h.resolve_next_inv (verdictMalformed_final (by decide))

/-! ## A received byte and a tick -/

theorem toNat_add_one_of_lt {x : BitVec 10} {n : Nat} (h : x.toNat < n) (hn : n < 1024) :
    (x + 1#10).toNat = x.toNat + 1 := by
  rw [BitVec.toNat_add]
  simp
  omega

/-- The byte stored, or dropped beyond the buffer, the wait goes on (R220). -/
theorem Waiting.storeResponseByte {s : State} (h : Waiting s) (b : Byte) : Waiting (storeResponseByte b s) := by
  unfold Machine.storeResponseByte
  split
  · rename_i hroom
    have hroom : s.rxIdx.toNat < 256 := hroom
    have hnext := toNat_add_one_of_lt hroom (by decide)
    obtain ⟨htx, _⟩ := h.indices
    exact { h with
      indices := ⟨htx, show (s.rxIdx + 1#10).toNat ≤ 513 by omega⟩
      count := show (s.rxIdx + 1#10).toNat ≤ 256 by omega
      memory := State.withByte_memory (c := .rxPkt) (show s.rxIdx.toNat < 256 from hroom) b h.memory }
  · exact { h with }

theorem storeResponseByte_toCnt (b : Byte) (s : State) : (storeResponseByte b s).toCnt = s.toCnt := by
  unfold storeResponseByte
  split <;> simp

/-- `RX_BYTE` in the wait completes: the wait goes on, or the transaction resolves (R220). -/
theorem Waiting.rxByteWait_next_inv {s : State} (h : Waiting s) (hcnt : s.toCnt ≠ 0#16) (b : Byte) :
    ∃ t, rxByteWait b s = .next t ∧ Inv t := by
  have hu := h.storeResponseByte b
  have huInv : Inv (Machine.storeResponseByte b s) := hu.inv (by rwa [storeResponseByte_toCnt])
  unfold rxByteWait finishIfComplete
  split
  · split
    · exact hu.resolve_next_inv (validate_final _)
    · exact ⟨_, rfl, huInv⟩
  · split
    · exact hu.resolveDiscovery_next_inv
    · exact ⟨_, rfl, huInv⟩

/-- The timeout completes with one of its three outcomes (R222). -/
theorem Waiting.timeout_next_inv {s : State} (h : Waiting s) : ∃ t, timeout s = .next t ∧ Inv t := by
  unfold timeout
  split
  · exact h.resolve_next_inv verdictNoReply_final
  · split
    · exact h.resolveDiscovery_next_inv
    · exact h.resolve_next_inv (verdictMalformed_final (by decide))

/-- `TICK` in the wait completes: the counter goes down, or the timeout has elapsed (R222). -/
theorem Waiting.tickWait_next_inv {s : State} (h : Waiting s) (hcnt : s.toCnt ≠ 0#16) :
    ∃ t, tickWait s = .next t ∧ Inv t := by
  rw [tickWait, if_neg hcnt]
  split
  · exact Waiting.timeout_next_inv { h with }
  · rename_i hone
    refine ⟨_, rfl, Waiting.inv { h with } ?_⟩
    show s.toCnt - 1#16 ≠ 0#16
    bv_omega

/-- In the wait, the two events that can resolve it complete and keep the invariant (R220, R222). -/
theorem exec_wait_next_inv {i : Instr} {s : State} (hI : Inv s) (hi : mayResolve i = true)
    (hw : s.txState = .txWaitResp) : ∃ t, exec i s = .next t ∧ Inv t := by
  have h := hI.toWaiting hw
  obtain ⟨hrx, _, _, hcnt, _⟩ := hI.waiting hw
  obtain ⟨hrun, _⟩ := h.active h.inTransaction.1
  cases i with
  | rxByte b =>
    rw [exec_rxByte_enabled b hrun hrx, rxDispatch_wait (s := emit (.rx b) s) hw]
    exact Waiting.rxByteWait_next_inv (s := emit (.rx b) s) { h with } hcnt b
  | tick =>
    rw [exec_tick_enabled hrun, tickArm, if_pos hw]
    exact h.tickWait_next_inv hcnt
  | _ => cases hi

end Sys2Proof.Machine
end

section
/-! Every outcome of an instruction keeps the invariant, and so does every step (R51). -/

namespace Sys2Proof.Machine

/-! ## Handing over the bytes of a frame or packet -/

theorem txReadyEnabled_iff (s : State) :
    s.txReadyEnabled = true ↔ s.run = true ∧ s.ieTxRdy = true ∧ s.txq.length < 2 := by
  simp [State.txReadyEnabled, and_assoc]

theorem txDoneEnabled_iff (s : State) :
    s.txDoneEnabled = true ↔ s.run = true ∧ s.ieTxDone = true ∧ s.txc = true := by
  simp [State.txDoneEnabled, and_assoc]

theorem exec_txReady_disabled {s : State} (h : s.txReadyEnabled = false) : exec .txReady s = .next s := by
  simp only [exec, execTxReady, deliver_disabled h]

theorem exec_txDone_disabled {s : State} (h : s.txDoneEnabled = false) : exec .txDone s = .next s := by
  simp only [exec, execTxDone, deliver_disabled h]

/-- With `TX_READY` waited for, a byte is due at data baud and `TX_DONE` is not waited for. -/
theorem Sending.of_ieTxRdy {s : State} (h : Sending s) (hr : s.ieTxRdy = true) :
    s.ieTxDone = false ∧ s.txState.emitting = true ∧ s.baudSel = .data := by
  rcases h.event with ⟨_, hd, hem⟩ | ⟨hr', _⟩
  · exact ⟨hd, hem, h.dataBaud (.inl hem)⟩
  · simp [hr'] at hr

/-- A byte at data baud joins `TXQ` where there is room, and the engine is still sending (R181). -/
theorem Sending.handOver {s : State} (h : Sending s) (hbaud : s.baudSel = .data) (hroom : s.txq.length < 2)
    (b : Byte) : Sending { s with txq := s.txq ++ [⟨b, s.baudSel⟩], txc := false } :=
  { h with
    breaks := fun p hp hbrk => by
      rcases List.mem_append.1 hp with hp | hp
      · exact h.breaks p hp hbrk
      · simp [List.mem_singleton.1 hp, hbaud] at hbrk
    depth := by
      show (s.txq ++ [_]).length ≤ 2
      rw [List.length_append, List.length_singleton]
      omega
    complete := nofun
    held := .inl (by simp) }

/-- A slot handed over, the next one due: the index moves on inside the frame (R187). -/
theorem Sending.handSlot {s : State} (h : Sending s) (hrdy : s.ieTxRdy = true) (hroom : s.txq.length < 2)
    (hidx : s.txIdx.toNat < 513) (b : Byte) :
    Sending { s with
      txq := s.txq ++ [⟨b, s.baudSel⟩], txc := false, txIdx := s.txIdx + 1#10, txState := .txData } := by
  obtain ⟨hdone, _, hbaud⟩ := h.of_ieTxRdy hrdy
  obtain ⟨_, hrx⟩ := h.indices
  have hnext := toNat_add_one_of_lt hidx (by decide)
  exact { h.handOver hbaud hroom b with
    event := .inl ⟨hrdy, hdone, rfl⟩
    indices := ⟨show (s.txIdx + 1#10).toNat ≤ 513 by omega, hrx⟩
    firstSlot := nofun
    slotIndex := fun _ => show 1 ≤ (s.txIdx + 1#10).toNat by omega
    packetIndex := nofun
    inPacket := nofun
    dataBaud := fun _ => hbaud }

/-- No slot is left: what was handed over is waited for (R187). -/
theorem Sending.frameOver {s : State} (h : Sending s) :
    Sending { s with txState := .txIdle, ieTxRdy := false, ieTxDone := true } :=
  { h with
    event := .inr ⟨rfl, rfl, rfl⟩
    firstSlot := nofun
    slotIndex := nofun
    packetIndex := nofun
    inPacket := nofun
    dataBaud := by simp [TxState.emitting] }

/-! ## The transmit events -/

/-- `TX_READY` taken: the next slot or packet byte, or the end of the frame (R186, R187, R218). -/
theorem Effect.inv_txReady {s t : State} (hI : Inv s) (hon : s.txReadyEnabled = true) (e : Effect s .txReady t) :
    Inv t := by
  obtain ⟨_, hrdy, hroom⟩ := (txReadyEnabled_iff s).1 hon
  have h := hI.sending (.inl hrdy)
  obtain ⟨hdone, _, hbaud⟩ := h.of_ieTxRdy hrdy
  have hput := h.handOver hbaud hroom
  obtain ⟨_, hrx⟩ := h.indices
  have hceil : s.slotCount.toNat ≤ 512 := h.slotCeiling
  have hlen : s.txPktLen.toNat ≤ 256 := h.lengths.2.1
  have hnext : s.txIdx.toNat < 513 → (s.txIdx + 1#10).toNat = s.txIdx.toNat + 1 :=
    fun hlt => toNat_add_one_of_lt hlt (by decide)
  cases e with
  | txReadyOff hoff => simp [hoff] at hon
  | slotMore _ hs hi => exact (h.handSlot hrdy hroom (by omega) _).inv
  | slotLast _ hs hi => exact (h.handSlot hrdy hroom (by omega) _).frameOver.inv
  | slotNone => exact h.frameOver.inv
  | pktMore _ hs hi =>
    have hnext := hnext (by omega)
    exact Sending.inv { hput (s.byteAt .txPkt s.txIdx.toNat) with
      indices := ⟨show (s.txIdx + 1#10).toNat ≤ 513 by omega, hrx⟩
      firstSlot := fun hst => nomatch hs.symm.trans hst
      slotIndex := fun hst => nomatch hs.symm.trans hst
      packetIndex := fun _ => show (s.txIdx + 1#10).toNat < s.txPktLen.toNat by omega }
  | pktLast _ hs hi =>
    have hnext := hnext (by omega)
    exact Sending.inv { hput (s.byteAt .txPkt s.txIdx.toNat) with
      event := .inr ⟨rfl, rfl, rfl⟩
      indices := ⟨show (s.txIdx + 1#10).toNat ≤ 513 by omega, hrx⟩
      firstSlot := nofun
      slotIndex := nofun
      packetIndex := nofun
      inPacket := fun _ => h.inPacket (by rw [hs]; rfl)
      dataBaud := fun _ => hbaud }
  | reject _ _ hi | read _ _ hi
  | resolvedResume _ _ _ _ _ _ _ _ _ _ _ _ hi | resolvedQuiet _ _ _ _ _ _ _ _ _ _ _ _ hi => cases hi

/-- The length of a packet on the wire fits `TXPKTLEN` (R29, R217). -/
theorem toNat_packetLength (b : Byte) : (BitVec.ofNat 9 (b.toNat + 1)).toNat = b.toNat + 1 := by
  rw [BitVec.toNat_ofNat, Nat.mod_eq_of_lt]
  have := b.isLt
  omega

/-- The timeouts fit `TOCNT` and are not 0 (R31, R219). -/
theorem ofNat_waitTicks_ne_zero (k : RespKind) : BitVec.ofNat 16 (waitTicks k) ≠ 0#16 := by
  obtain ⟨hlo, hhi⟩ := waitTicks_bounds k
  intro h0
  have hzero : waitTicks k % 2 ^ 16 = 0 := by simpa using congrArg BitVec.toNat h0
  omega

/-- `TX_DONE` taken: a break, the first byte after one, or the turnaround (R184, R185, R217, R219). -/
theorem Effect.inv_txDone {s t : State} (hI : Inv s) (hon : s.txDoneEnabled = true) (e : Effect s .txDone t) :
    Inv t := by
  obtain ⟨_, hdone, hc⟩ := (txDoneEnabled_iff s).1 hon
  have h := hI.sending (.inr hdone)
  obtain ⟨_, hrx⟩ := h.indices
  cases e with
  | txDoneOff hoff => simp [hoff] at hon
  | frameEnd _ hs hm hx =>
    exact Sending.inv (Standing.sending_break { h.toStanding with } h.running h.deaf rfl rfl rfl rfl rfl
      (.inl ⟨rfl, h.mode⟩))
  | packetStart _ hs ha hx =>
    exact Sending.inv (Standing.sending_break { h.toStanding with } h.running h.deaf rfl rfl rfl rfl rfl
      (.inr ⟨rfl, ha, rfl⟩))
  | startCode _ hs hx =>
    exact Sending.inv { h with
      event := .inl ⟨rfl, rfl, rfl⟩
      breaks := by simp
      depth := by simp
      complete := nofun
      held := by simp
      indices := ⟨show (1#10).toNat ≤ 513 by decide, hrx⟩
      firstSlot := fun _ => rfl
      slotIndex := nofun
      packetIndex := nofun
      inPacket := nofun
      dataBaud := fun _ => rfl }
  | packetFirst _ hs hx =>
    have hactive := h.inPacket (by rw [hs]; rfl)
    obtain ⟨_, hmin⟩ := h.active hactive.1
    have hmin : 24 ≤ (s.byteAt .txPkt 2).toNat := hmin
    have hlen := toNat_packetLength (s.byteAt .txPkt 2)
    have hmax := (s.byteAt .txPkt 2).isLt
    obtain ⟨hrxLen, _, hrxPktLen⟩ := h.lengths
    exact Sending.inv { h with
      event := .inl ⟨rfl, rfl, rfl⟩
      breaks := by simp
      depth := by simp
      complete := nofun
      held := by simp
      indices := ⟨show (1#10).toNat ≤ 513 by decide, hrx⟩
      lengths := ⟨hrxLen, show (BitVec.ofNat 9 ((s.byteAt .txPkt 2).toNat + 1)).toNat ≤ 256 by omega, hrxPktLen⟩
      firstSlot := nofun
      slotIndex := nofun
      packetIndex := fun _ => show 1 < (BitVec.ofNat 9 ((s.byteAt .txPkt 2).toNat + 1)).toNat by omega
      inPacket := fun _ => hactive
      dataBaud := fun _ => rfl }
  | turnaround _ hs =>
    have hrdy : s.ieTxRdy = false := by
      rcases h.event with ⟨_, hd, _⟩ | ⟨hr, _⟩
      · simp [hd] at hdone
      · exact hr
    obtain ⟨htx, _⟩ := h.indices
    exact Waiting.inv { h.toStanding with
      state := rfl
      inTransaction := h.inPacket (by rw [hs]; rfl)
      unready := hrdy
      undone := rfl
      hears := rfl
      released := rfl
      empty := h.complete hc
      indices := ⟨htx, Nat.zero_le _⟩
      count := Nat.zero_le _ } (ofNat_waitTicks_ne_zero s.respKind)
  | reject _ _ hi | read _ _ hi
  | resolvedResume _ _ _ _ _ _ _ _ _ _ _ _ hi | resolvedQuiet _ _ _ _ _ _ _ _ _ _ _ _ hi => cases hi

/-- `SHIFTOUT`: one pair less is held, and the last to leave is remembered in `TXC` (R182). -/
theorem Effect.inv_shiftout {s t : State} (hI : Inv s) (e : Effect s .shiftout t) : Inv t := by
  cases e with
  | shiftNone => exact hI
  | shift p rest hx =>
    have hno : s.txq ≠ [] := by simp [hx]
    have hc : s.txc = false := by
      by_contra hc
      exact hno (hI.complete (by simpa using hc))
    exact { hI with
      waiting := fun hw => absurd (hI.waiting hw).2.2.1 hno
      breaks := fun q hq => hI.breaks q (by rw [hx]; exact List.mem_cons_of_mem p hq)
      receiving := fun hm => absurd (hI.receiving hm).2.2.2 hno
      depth := by
        have hdepth := hI.depth
        rw [hx, List.length_cons] at hdepth
        exact Nat.le_of_succ_le hdepth
      complete := fun h => by simpa [hc] using h
      quiet := fun hr hq => absurd (hI.quiet hr hq) hno
      handed := fun _ => by
        cases rest with
        | nil => exact .inr (by simp)
        | cons q rest => exact .inl (by simp) }
  | reject _ _ hi | read _ _ hi
  | resolvedResume _ _ _ _ _ _ _ _ _ _ _ _ hi | resolvedQuiet _ _ _ _ _ _ _ _ _ _ _ _ hi => cases hi

/-! ## The receive events -/

/-- In continuous receive no response is waited for (R51 I6). -/
theorem Inv.ne_waitResp_of_contRecv {s : State} (hI : Inv s) (hm : s.taskMode = .contRecv) :
    s.txState ≠ .txWaitResp := by
  obtain ⟨hidle, _⟩ := hI.receiving hm
  simp [hidle]

/-- `RX_BYTE` outside the wait: the start code, a slot, or a byte that is dropped (R204 to R206). -/
theorem Effect.inv_rxByte {s t : State} {b : Byte} (hI : Inv s) (hout : s.txState ≠ .txWaitResp)
    (e : Effect s (.rxByte b) t) : Inv t := by
  obtain ⟨htx, _⟩ := hI.indices
  cases e with
  | rxByteOff => exact hI
  | rxByteIdle => exact { hI with }
  | rxByteFull => exact { hI with }
  | rxByteStart =>
    exact { hI with
      waiting := fun hw => absurd hw hout
      indices := ⟨htx, show (1#10).toNat ≤ 513 by decide⟩
      startCode := fun _ _ => show 1#10 ≠ 0#10 by decide
      memory := State.withByte_memory (c := .rxFrame) (show 0 < 513 by decide) b hI.memory }
  | rxByteSlot _ hm hr hi =>
    have hnext := toNat_add_one_of_lt (Nat.lt_succ_of_le hi) (by decide)
    exact { hI with
      waiting := fun hw => absurd hw hout
      indices := ⟨htx, show (s.rxIdx + 1#10).toNat ≤ 513 by omega⟩
      startCode := fun _ _ => show s.rxIdx + 1#10 ≠ 0#10 from fun h0 => by simp [h0] at hnext
      memory := State.withByte_memory (c := .rxFrame) (show s.rxIdx.toNat < 513 by omega) b hI.memory }
  | waitRoom _ hw | waitFull _ hw => exact absurd hw hout
  | resolvedResume _ _ _ _ _ _ _ _ _ _ _ _ _ hw | resolvedQuiet _ _ _ _ _ _ _ _ _ _ _ _ _ hw => exact absurd hw hout
  | reject _ _ hi | read _ _ hi => cases hi

/-- `TICK` outside the wait does nothing (R223). -/
theorem Effect.inv_tick {s t : State} (hI : Inv s) (hout : s.txState ≠ .txWaitResp) (e : Effect s .tick t) :
    Inv t := by
  cases e with
  | tickOff => exact hI
  | tickIdle => exact hI
  | waitTick hw => exact absurd hw hout
  | resolvedResume _ _ _ _ _ _ _ _ _ _ _ _ _ hw | resolvedQuiet _ _ _ _ _ _ _ _ _ _ _ _ _ hw => exact absurd hw hout
  | reject _ _ hi | read _ _ hi => cases hi

/-- `RX_BREAK`: a new frame begins, the last is reported, or the response begins anew (R201 to R203, R221). -/
theorem Effect.inv_rxBreak {s t : State} (hI : Inv s) (e : Effect s .rxBreak t) : Inv t := by
  obtain ⟨htx, hrx⟩ := hI.indices
  cases e with
  | rxBreakOff => exact hI
  | rxBreakOutside hm =>
    exact { hI with
      waiting := fun hw => absurd hw (hI.ne_waitResp_of_contRecv hm)
      indices := ⟨htx, Nat.zero_le _⟩
      startCode := nofun }
  | rxBreakReport hm hr =>
    have hne := hI.startCode hm hr
    obtain ⟨_, hlens⟩ := hI.lengths
    exact { hI with
      waiting := fun hw => absurd hw (hI.ne_waitResp_of_contRecv hm)
      indices := ⟨htx, Nat.zero_le _⟩
      startCode := nofun
      lengths := ⟨show (s.rxIdx - 1#10).toNat ≤ 512 by bv_omega, hlens⟩ }
  | waitBreakAddressed hw =>
    obtain ⟨_, _, _, hcnt, _⟩ := hI.waiting hw
    exact Waiting.inv { hI.toWaiting hw with indices := ⟨htx, Nat.zero_le _⟩, count := Nat.zero_le _ } hcnt
  | waitBreakDiscovery => exact { hI with }
  | reject _ _ hi | read _ _ hi
  | resolvedResume _ _ _ _ _ _ _ _ _ _ _ _ hi | resolvedQuiet _ _ _ _ _ _ _ _ _ _ _ _ hi => cases hi

/-! ## The commands -/

theorem Inv.result_ne_pending {s : State} (hI : Inv s) (ha : s.txnActive = false) : s.result ≠ .pending :=
  fun hr => by simp [hI.pending.2 hr] at ha

theorem mayResolve_eq_false_of_isCommand {i : Instr} (hi : isCommand i = true) : mayResolve i = false := by
  cases i <;> first | rfl | cases hi

/-- `SENDTXN` accepted: the transaction is active and its outcome pending (R166, R51 I7). -/
theorem Inv.standing_sendtxnAccepted {s : State} (hI : Inv s) (f : Byte) (hr : s.run = true)
    (hl : 24 ≤ (s.byteAt .txPkt 2).toNat) : Standing (sendtxnAccepted f s) :=
  { hI.standing with
    pending := by simp
    active := fun _ => ⟨hr, hl⟩
    cause := by simp }

theorem Effect.inv_command {i : Instr} {s t : State} (hI : Inv s) (hi : isCommand i = true) (e : Effect s i t) :
    Inv t := by
  obtain ⟨htx, hrx⟩ := hI.indices
  cases e with
  | reject => exact { hI with }
  | read => exact { hI with }
  | setslot a v _ ha =>
    have hceil : s.slotCount.toNat ≤ 512 := hI.slotCeiling
    exact { hI with
      memory := State.withByte_memory (c := .txFrame) (show a.toNat < 513 by omega) v hI.memory }
  | setcount a =>
    obtain ⟨hfloor, hceil⟩ := clampCount_bounds a.toNat
    have hceil' : clampCount a.toNat ≤ 512 := hceil
    have hcount : (BitVec.ofNat 10 (clampCount a.toNat)).toNat = clampCount a.toNat := by
      rw [BitVec.toNat_ofNat, Nat.mod_eq_of_lt (by omega)]
    exact { hI with slotFloor := by rwa [hcount], slotCeiling := by rwa [hcount] }
  | pktwr a v ha hlt =>
    exact { hI with
      active := fun h => nomatch ha.symm.trans h
      memory := State.withByte_memory (c := .txPkt) (show a.toNat < 256 from hlt) v hI.memory }
  | startout ha =>
    exact Sending.inv (Standing.sending_break { hI.standing with
      pending := by simpa [State.txnActive] using hI.result_ne_pending ha
      active := nofun } rfl rfl rfl rfl rfl rfl rfl (.inl ⟨rfl, nofun⟩))
  | startin ha _ hx =>
    exact { hI with
      listening := fun _ => ⟨rfl, rfl⟩
      ready := nofun
      done := nofun
      waiting := nofun
      receiving := fun _ => ⟨rfl, rfl, rfl, hx⟩
      pending := by simpa [State.txnActive] using hI.result_ne_pending ha
      active := nofun
      indices := ⟨htx, Nat.zero_le _⟩
      firstSlot := nofun
      slotIndex := nofun
      packetIndex := nofun
      startCode := nofun
      quiet := fun _ _ => hx
      inPacket := nofun
      expecting := fun h => absurd rfl h
      underWay := nofun
      handed := by simp
      listener := fun _ => .inl rfl
      stopped := nofun
      drives := fun _ h => absurd rfl h
      released := fun _ _ => rfl
      dataBaud := by simp [TxState.emitting] }
  | stop ha =>
    exact AtRest.inv { hI with
      active := fun h => nomatch ha.symm.trans h
      idle := rfl
      unready := rfl
      undone := rfl
      deaf := rfl
      inactive := ha
      noFrame := rfl
      receiving := fun hm => (hI.receiving hm).2.2.2
      running := nofun }
  | setdirpin => exact { hI with }
  | hookFrame => exact { hI with }
  | hookTxn => exact { hI with }
  | nexttn => exact { hI with }
  | sendtxnNow f hr ha hm hl hq hx =>
    obtain ⟨_, _, _, hdeaf⟩ := (quiescent_iff s).1 hq
    exact Sending.inv (Standing.sending_break { hI.standing_sendtxnAccepted f hr hl with } hr hdeaf rfl rfl rfl rfl rfl
      (.inr ⟨rfl, sendtxnAccepted_txnActive f s, rfl⟩))
  | sendtxnLater f hr ha hm hl hq =>
    have hmode : (sendtxnAccepted f s).taskMode ≠ .contRecv := by
      rw [sendtxnAccepted_taskMode]
      split <;> decide
    exact { hI.standing_sendtxnAccepted f hr hl, hI with
      receiving := fun h => absurd h hmode
      startCode := fun h => absurd h hmode
      released := fun _ h => absurd h hmode
      drives := fun h _ hw => hI.drives h (by simp [hm]) hw
      inPacket := fun hx => nomatch ha.symm.trans (hI.inPacket hx).1
      underWay := fun _ => hq
      listener := fun hrx => .inr ((hI.listener hrx).resolve_left (by simp [hm])) }
  | clrflag => exact { hI with }
  | resolvedResume _ _ _ _ _ _ _ _ _ _ _ _ hres | resolvedQuiet _ _ _ _ _ _ _ _ _ _ _ _ hres =>
    simp [mayResolve_eq_false_of_isCommand hi] at hres
  | _ => cases hi

/-! ## Instructions and steps -/

/-- Every instruction keeps the invariant. -/
theorem exec_keeps_inv {i : Instr} {s t : State} (hI : Inv s) (h : exec i s = .next t) : Inv t := by
  by_cases hres : mayResolve i = true ∧ s.txState = .txWaitResp
  · obtain ⟨u, hu, hInv⟩ := exec_wait_next_inv hI hres.1 hres.2
    rwa [← Host.Outcome.next.inj (hu.symm.trans h)]
  have e := exec_effect hI h
  cases i with
  | txReady =>
    cases hon : s.txReadyEnabled with
    | true => exact e.inv_txReady hI hon
    | false => rwa [← Host.Outcome.next.inj ((exec_txReady_disabled hon).symm.trans h)]
  | txDone =>
    cases hon : s.txDoneEnabled with
    | true => exact e.inv_txDone hI hon
    | false => rwa [← Host.Outcome.next.inj ((exec_txDone_disabled hon).symm.trans h)]
  | rxByte b => exact e.inv_rxByte hI fun hw => hres ⟨rfl, hw⟩
  | rxBreak => exact e.inv_rxBreak hI
  | tick => exact e.inv_tick hI fun hw => hres ⟨rfl, hw⟩
  | shiftout => exact e.inv_shiftout hI
  | _ => exact e.inv_command hI rfl

/-- An input keeps the invariant: what it decodes to does, and an unlisted opcode is a reject (R171, R104). -/
theorem runInput_keeps_inv {x : Input} {s t : State} (hI : Inv s) (h : runInput x s = .next t) : Inv t := by
  unfold runInput at h
  split at h
  · exact exec_keeps_inv hI h
  · unfold execUndecoded at h
    split at h
    · cases h
      exact { hI with }
    · cases h

/-- Settles O8: a step takes an input off the schedule, which no clause reads, and runs it (`runInput_keeps_inv`). -/
theorem stepKeepsInvariant : Obligations.StepKeepsInvariant := by
  intro s t hI h
  cases hsched : s.schedule with
  | nil =>
    rw [step_nil hsched] at h
    cases h
    exact hI
  | cons x rest =>
    rw [step_cons hsched] at h
    exact runInput_keeps_inv (s := { s with schedule := rest }) { hI with } h

end Sys2Proof.Machine
end

section
/-! No instruction faults in a state of the invariant: every index lies in its buffer, every byte finds room in `TXQ`,
no count goes below zero (R51 I9, R277, R288). -/

namespace Sys2Proof.Machine

/-- An answer that is a next state, not a stop. -/
def Completes (r : Res) : Prop := ∃ t, r = .next t

theorem completes_next (s : State) : Completes (.next s) := ⟨s, rfl⟩

theorem completes_ite {p : Prop} [Decidable p] {a b : Res} (ha : p → Completes a) (hb : ¬p → Completes b) :
    Completes (if p then a else b) := by
  split
  · exact ha ‹_›
  · exact hb ‹_›

theorem completes_andThen {r : Res} {k : State → Res} (hr : Completes r) (hk : ∀ u, Completes (k u)) :
    Completes (andThen r k) := by
  obtain ⟨u, rfl⟩ := hr
  exact hk u

theorem completes_load {b : Buf} {i : Nat} (hi : i < b.size) {s : State} {k : Byte → Res}
    (hk : ∀ x, Completes (k x)) : Completes (load b i s k) := by
  rw [load_inside hi]
  exact hk _

theorem completes_store {b : Buf} {i : Nat} (hi : i < b.size) (v : Byte) (s : State) : Completes (store b i v s) :=
  ⟨_, store_inside hi v s⟩

theorem completes_respond (d : Data) (s : State) : Completes (respond d s) := ⟨_, rfl⟩

theorem completes_reject (c : Cause) (s : State) : Completes (reject c s) := ⟨_, rfl⟩

theorem completes_deliver {e : Bool} {arm : State → Res} {s : State} (h : e = true → Completes (arm s)) :
    Completes (deliver e arm s) := completes_ite h fun _ => completes_next s

theorem completes_uartPut {s : State} (hroom : s.txq.length < 2) (b : Byte) : Completes (uartPut b s) :=
  ⟨_, uartPut_room hroom b⟩

/-- The frame boundary needs room for one pair, whatever the task mode (R180). -/
theorem completes_frameBoundary {s : State} (hroom : s.txq.length < 2) : Completes (frameBoundary s) := by
  have hput : ∀ u : State, u.txq = s.txq → Completes (putBreak (setDir true u)) := fun u hu =>
    completes_uartPut (by simpa [hu] using hroom) _
  unfold frameBoundary
  split
  · exact completes_andThen (hput _ rfl) fun u => completes_next _
  · exact completes_next _
  · exact completes_andThen (hput _ rfl) fun u => completes_next _
  · exact completes_andThen (hput _ rfl) fun u => completes_next _

/-! ## The commands -/

/-- A command that is tested by `Startable` goes on only with `TXQ` empty (R50, R160, R161). -/
theorem completes_whenStartable {s : State} {k : Res} (hk : s.txq = [] → Completes k) :
    Completes (whenStartable s k) := by
  refine completes_ite (fun _ => completes_reject _ s) fun _ => completes_ite (fun _ => completes_reject _ s) fun _ =>
    completes_ite (fun _ => completes_reject _ s) fun hbusy => hk ?_
  simpa [txBusy_iff] using hbusy

/-- A byte read or stored within a tested bound, else a `RANGE` reject (R73). -/
theorem exec_command_completes {i : Instr} {s : State} (hI : Inv s) (hi : isCommand i = true) :
    Completes (exec i s) := by
  have hceil : s.slotCount.toNat ≤ 512 := hI.slotCeiling
  have hrej : ∀ {p : Prop} (c : Cause), p → Completes (reject c s) := fun c _ => completes_reject c s
  have hresp : ∀ (d : Data) (u : State), Completes (respond d u) := completes_respond
  cases i with
  | setslot a v =>
    refine completes_ite (fun hr => ?_) (hrej _)
    obtain ⟨_, ha⟩ := (slotInRange_iff a s).1 hr
    exact completes_andThen (completes_store (show a.toNat < 513 by omega) v s) (hresp _)
  | getslot a =>
    refine completes_ite (fun hr => ?_) (hrej _)
    obtain ⟨_, ha⟩ := (slotInRange_iff a s).1 hr
    exact completes_load (show a.toNat < 513 by omega) fun x => hresp _ _
  | rxslot a =>
    refine completes_ite (fun hr => ?_) (hrej _)
    exact completes_load (Nat.lt_succ_of_le ((rxIndexInRange_iff a).1 hr)) fun x => hresp _ _
  | setcount a => exact hresp _ _
  | getcount => exact hresp _ _
  | rdrxlen => exact hresp _ _
  | startout =>
    exact completes_whenStartable fun hx => completes_andThen (completes_frameBoundary (by simp [hx])) (hresp _)
  | startin => exact completes_whenStartable fun _ => hresp _ _
  | stop => exact completes_ite (hrej _) fun _ => hresp _ _
  | setdirpin a => exact completes_ite (fun _ => hresp _ _) fun _ => hresp _ _
  | sethook a f =>
    exact completes_ite (fun _ => hresp _ _) fun _ => completes_ite (fun _ => hresp _ _) (hrej _)
  | pktwr a v =>
    refine completes_ite (hrej _) fun _ => completes_ite (fun hr => ?_) (hrej _)
    exact completes_andThen (completes_store ((pktOffsetInRange_iff a).1 hr) v s) (hresp _)
  | pktrd a =>
    refine completes_ite (fun hr => ?_) (hrej _)
    exact completes_load ((pktOffsetInRange_iff a).1 hr) fun x => hresp _ _
  | nexttn => exact hresp _ _
  | sendtxn f =>
    refine completes_ite (hrej _) fun hr => completes_ite (hrej _) fun _ => completes_ite (hrej _) fun _ =>
      completes_ite (hrej _) fun _ => completes_ite (fun hq => ?_) fun _ => hresp _ _
    have hx : s.txq = [] := hI.quiet (by simpa using hr) hq
    exact completes_andThen (completes_frameBoundary (by simp [hx])) (hresp _)
  | rdpktlen => exact hresp _ _
  | rddisc a => exact completes_ite (fun _ => hresp _ _) (hrej _)
  | rdstatus => exact hresp _ _
  | clrflag m => exact hresp _ _
  | _ => cases hi

/-! ## The events -/

/-- A slot within the count lies in `TXFRAME` (R187, R51 I8). -/
theorem completes_nextSlot {s : State} (hceil : s.slotCount.toNat ≤ 512) (hroom : s.txq.length < 2) :
    Completes (nextSlot s) :=
  completes_ite
    (fun hi => completes_load (show s.txIdx.toNat < 513 by omega) fun b =>
      completes_andThen (completes_uartPut hroom b) fun u => completes_next _)
    fun _ => completes_next _

theorem completes_txReadyArm {s : State} (hI : Inv s) (hroom : s.txq.length < 2) : Completes (txReadyArm s) := by
  have hceil : s.slotCount.toNat ≤ 512 := hI.slotCeiling
  unfold txReadyArm
  split
  · exact completes_nextSlot hceil hroom
  · exact completes_nextSlot hceil hroom
  · rename_i hs
    have hidx := hI.packetIndex hs
    have hlen : s.txPktLen.toNat ≤ 256 := hI.lengths.2.1
    exact completes_load (show s.txIdx.toNat < 256 by omega) fun b =>
      completes_andThen (completes_uartPut hroom b) fun u =>
        completes_ite (fun _ => completes_next _) fun _ => completes_next _
  all_goals exact completes_next _

/-- Every byte that `TX_DONE` hands over finds `TXQ` empty (R43, R184, R185, R217). -/
theorem completes_txDoneArm {s : State} (hx : s.txq = []) : Completes (txDoneArm s) := by
  have hroom : s.txq.length < 2 := by simp [hx]
  unfold txDoneArm
  split
  · exact completes_frameBoundary hroom
  · exact completes_andThen (completes_uartPut (by exact hroom) _) fun u => completes_next _
  · exact completes_andThen (completes_uartPut (by exact hroom) _) fun u => completes_next _
  all_goals exact completes_next _

theorem completes_rxByteFrame (b : Byte) (s : State) : Completes (rxByteFrame b s) := by
  unfold rxByteFrame
  split <;> exact completes_next _

theorem completes_rxBreakWait (s : State) : Completes (rxBreakWait s) := by
  unfold rxBreakWait
  split <;> exact completes_next _

/-- The frame a break ends has at least its start code (R203, R51 I9). -/
theorem completes_rxBreakFrame {s : State} (hstart : s.rxState = .rxReceiving → s.rxIdx ≠ 0#10) :
    Completes (rxBreakFrame s) := by
  unfold rxBreakFrame
  split
  · exact completes_next _
  · exact completes_next _
  · rename_i hr
    exact completes_ite (fun h0 => absurd h0 (hstart hr)) fun _ => completes_next _

theorem completes_rxDispatch {wait frame : State → Res} {s : State}
    (hw : s.txState = .txWaitResp → Completes (wait s)) (hf : s.taskMode = .contRecv → Completes (frame s)) :
    Completes (rxDispatch wait frame s) :=
  completes_ite hw fun _ => completes_ite hf fun _ => completes_next s

theorem completes_shiftoutArm (s : State) : Completes (shiftoutArm s) := by
  unfold shiftoutArm
  split <;> exact completes_next _

/-- Settles O9: the commands by their tested operands, the two events of the wait as `exec_wait_next_inv` says, the
other events by the clauses of the invariant on indices and `TXQ`. -/
theorem everyInstructionCompletes : Obligations.EveryInstructionCompletes := by
  intro i s hI
  by_cases hres : mayResolve i = true ∧ s.txState = .txWaitResp
  · obtain ⟨t, ht, _⟩ := exec_wait_next_inv hI hres.1 hres.2
    exact ⟨t, ht⟩
  cases i with
  | txReady => exact completes_deliver fun hon => completes_txReadyArm hI ((txReadyEnabled_iff s).1 hon).2.2
  | txDone =>
    exact completes_deliver (arm := fun u => txDoneArm { u with txc := false }) fun hon =>
      completes_txDoneArm (hI.complete ((txDoneEnabled_iff s).1 hon).2.2)
  | rxByte b =>
    exact completes_deliver (arm := fun u => rxDispatch (rxByteWait b) (rxByteFrame b) (emit (.rx b) u)) fun _ =>
      completes_rxDispatch (fun hw => absurd ⟨rfl, hw⟩ hres) fun _ => completes_rxByteFrame b _
  | rxBreak =>
    exact completes_deliver (arm := fun u => rxDispatch rxBreakWait rxBreakFrame (emit .rxBrk u)) fun _ =>
      completes_rxDispatch (fun _ => completes_rxBreakWait _) fun hm => completes_rxBreakFrame (hI.startCode hm)
  | tick =>
    exact completes_deliver fun _ => completes_ite (fun hw => absurd ⟨rfl, hw⟩ hres) fun _ => completes_next s
  | shiftout => exact completes_deliver fun _ => completes_shiftoutArm s
  | _ => exact exec_command_completes hI rfl

end Sys2Proof.Machine
end

section
/-! An instruction's word decodes to the instruction with the bits its command ignores cleared (R100 to R103), so what
every such instruction keeps a run of encoded instructions keeps. -/

namespace Sys2Proof

/-- The instruction the engine reads: the flag bits its command ignores are clear (R104, log 11). -/
def Instr.asRead : Instr → Instr
  | .sethook a v => .sethook a (v &&& sethookBits)
  | .sendtxn v => .sendtxn (v &&& sendtxnBits)
  | .clrflag v => .clrflag (v &&& clrflagBits)
  | i => i

/-- The words of an instruction decode to it, its ignored bits cleared (R100, R102, R103). -/
theorem decode_encode (i : Instr) : decode (encode i) = .ok i.asRead := by
  cases i with
  | txReady | txDone | rxByte b | rxBreak | tick | shiftout =>
    simp [encode, decode, decodeEvent, evKind_evWord, evData_evWord, Instr.asRead]
  | _ => exact decode_cmdWord _ _ _

theorem Instr.asRead_ne_sendtxn {i : Instr} (h : ∀ f, i ≠ .sendtxn f) (f : Byte) : i.asRead ≠ .sendtxn f := by
  cases i with
  | sendtxn g => exact absurd rfl (h g)
  | _ => exact nofun

end Sys2Proof

namespace Sys2Proof.Machine

/-- Induction along a run of encoded instructions: what every instruction of the list keeps, the run keeps (R315). -/
theorem runInputs_encode_keeps {P : State → Prop} {is : List Instr} {s t : State}
    (hstep : ∀ i ∈ is, ∀ u v, P u → exec i.asRead u = .next v → P v) (hs : P s)
    (h : runInputs (is.map encode) s = .next t) : P t := by
  induction is generalizing s with
  | nil =>
    cases h
    exact hs
  | cons i rest ih =>
    obtain ⟨u, hu, ht⟩ := andThen_eq_next h
    rw [runInput_ok (decode_encode i)] at hu
    exact ih (fun j hj => hstep j (List.mem_cons_of_mem i hj)) (hstep i List.mem_cons_self s u hs hu) ht

end Sys2Proof.Machine
end

section
/-! With no transaction active nothing but `SENDTXN` writes the response or its outcome (R78). -/

namespace Sys2Proof.Machine

/-- `t` shows the response and the outcome that `s` shows (R78). -/
structure SameResponse (s t : State) : Prop where
  packet : t.rxPkt = s.rxPkt
  length : t.rxPktLen = s.rxPktLen
  result : t.result = s.result
  cause : t.malfCause = s.malfCause
  uid : t.discUid = s.discUid

theorem SameResponse.refl (s : State) : SameResponse s s := ⟨rfl, rfl, rfl, rfl, rfl⟩

theorem SameResponse.trans {s t u : State} (h : SameResponse s t) (k : SameResponse t u) : SameResponse s u :=
  ⟨k.packet.trans h.packet, k.length.trans h.length, k.result.trans h.result, k.cause.trans h.cause,
    k.uid.trans h.uid⟩

theorem SameResponse.byteAt {s t : State} (h : SameResponse s t) (k : Nat) : t.byteAt .rxPkt k = s.byteAt .rxPkt k :=
  congrArg (Memory.read · k) h.packet

/-- A transaction that waits for its response is active (R228). -/
theorem Inv.txnActive_of_waitResp {s : State} (hI : Inv s) (hw : s.txState = .txWaitResp) : s.txnActive = true :=
  (hI.inPacket (by rw [hw]; rfl)).1

/-- Who writes the response: the wait for it, which is part of an active transaction, and `SENDTXN`. -/
theorem Effect.sameResponse {i : Instr} {s t : State} (hI : Inv s) (ha : s.txnActive = false)
    (hi : ∀ f, i ≠ .sendtxn f) (e : Effect s i t) : SameResponse s t := by
  have hout : s.txState ≠ .txWaitResp := fun hw => by simp [hI.txnActive_of_waitResp hw] at ha
  cases e with
  | sendtxnNow f => exact absurd rfl (hi f)
  | sendtxnLater f => exact absurd rfl (hi f)
  | waitRoom _ hw => exact absurd hw hout
  | waitFull _ hw => exact absurd hw hout
  | resolvedResume _ _ _ _ _ _ _ _ _ _ _ _ _ hw => exact absurd hw hout
  | resolvedQuiet _ _ _ _ _ _ _ _ _ _ _ _ _ hw => exact absurd hw hout
  | _ => exact ⟨rfl, rfl, rfl, rfl, rfl⟩

/-- What a run without `SENDTXN` from `s` keeps: no transaction is active, and the response is that of `s`. -/
structure StillShows (s u : State) : Prop where
  inv : Inv u
  inactive : u.txnActive = false
  same : SameResponse s u

/-- An outcome that stays settled leaves no transaction active (R51 I7). -/
theorem StillShows.exec {i : Instr} {s u v : State} (hu : StillShows s u) (hi : ∀ f, i ≠ .sendtxn f)
    (h : exec i u = .next v) : StillShows s v := by
  have hInv := exec_keeps_inv hu.inv h
  have hsame := (exec_effect hu.inv h).sameResponse hu.inv hu.inactive hi
  have hsettled : v.result ≠ .pending := hsame.result ▸ hu.inv.result_ne_pending hu.inactive
  exact ⟨hInv, by simpa [← hInv.pending] using hsettled, hu.same.trans hsame⟩

/-- Settles O58, by induction along the run (`runInputs_encode_keeps`) with `StillShows.exec` as its step. -/
theorem responseIsFinal : Obligations.ResponseIsFinal := by
  intro is s t hI ha hno h
  have hstep : ∀ i ∈ is, ∀ u v, StillShows s u → exec i.asRead u = .next v → StillShows s v :=
    fun i hi _ _ hu => hu.exec (Instr.asRead_ne_sendtxn (hno i hi))
  obtain ⟨_, _, hsame⟩ := runInputs_encode_keeps hstep ⟨hI, ha, .refl s⟩ h
  exact ⟨hsame.byteAt, hsame.length, hsame.result, hsame.cause, hsame.uid⟩

end Sys2Proof.Machine
end

section
/-! `TASKMODE` has one writer at a time: the foreground with no transaction active, the handler with one (R81, R307). -/

namespace Sys2Proof.Machine

theorem isCommand_eq_false_of_mayResolve {i : Instr} (hi : mayResolve i = true) : isCommand i = false := by
  by_contra hc
  simp [mayResolve_eq_false_of_isCommand (by simpa using hc)] at hi

/-- A command that writes `TASKMODE` has found no transaction active; an event that writes it resolves one (R225). -/
theorem Effect.taskMode_eq_or {i : Instr} {s t : State} (hI : Inv s) (e : Effect s i t) :
    t.taskMode = s.taskMode ∨
    (s.txnActive = false ∧ (i = .startout ∨ i = .startin ∨ ∃ f, i = .sendtxn f)) ∨
    (s.txnActive = true ∧ isCommand i = false ∧ t.taskMode = .contSend) := by
  cases e with
  | startout ha => exact .inr (.inl ⟨ha, .inl rfl⟩)
  | startin ha => exact .inr (.inl ⟨ha, .inr (.inl rfl)⟩)
  | sendtxnNow f _ ha => exact .inr (.inl ⟨ha, .inr (.inr ⟨f, rfl⟩)⟩)
  | sendtxnLater f _ ha => exact .inr (.inl ⟨ha, .inr (.inr ⟨f, rfl⟩)⟩)
  | resolvedResume _ _ _ _ _ _ _ _ _ _ _ _ hi hw =>
    exact .inr (.inr ⟨hI.txnActive_of_waitResp hw, isCommand_eq_false_of_mayResolve hi, rfl⟩)
  | resolvedQuiet _ _ _ _ _ _ _ _ _ _ _ _ hi hw =>
    exact .inr (.inr ⟨hI.txnActive_of_waitResp hw, isCommand_eq_false_of_mayResolve hi, rfl⟩)
  | _ => exact .inl rfl

/-- Settles O51: the writers by cases on the outcome (`Effect.taskMode_eq_or`); the outcome is pending exactly while a
transaction is active, in the next state too (R51 I7, `exec_keeps_inv`). -/
theorem taskModeHasOneWriter : Obligations.TaskModeHasOneWriter := by
  intro i s t hI h
  have hpending := (exec_keeps_inv hI h).pending
  refine ⟨fun hne => ((exec_effect hI h).taskMode_eq_or hI).resolve_left hne, fun _ => hpending.symm, fun _ => ?_⟩
  rw [ne_eq, ← hpending, Bool.not_eq_true]

end Sys2Proof.Machine
end

section
/-! Which buffer byte an instruction stores to, in every state (R71, R150): `SETSLOT`, `PKTWR` and `RX_BYTE` one at
most, everything else none. -/

namespace Sys2Proof.Machine

/-! ## What stores nothing -/

/-- The four buffers are in a next state of `r` as they are in `s`. -/
def KeepsBuffers (s : State) (r : Res) : Prop := ∀ t, r = .next t → t.memory = s.memory

theorem keepsBuffers_next {s t : State} (h : t.memory = s.memory) : KeepsBuffers s (.next t) := by
  rintro _ ⟨⟩
  exact h

theorem keepsBuffers_fault (s : State) (f : Fault) : KeepsBuffers s (.fault f) := by
  rintro t ⟨⟩

theorem KeepsBuffers.of_eq {s u : State} {r : Res} (h : KeepsBuffers u r) (hm : u.memory = s.memory) :
    KeepsBuffers s r := fun t ht => (h t ht).trans hm

theorem keepsBuffers_ite {s : State} {p : Prop} [Decidable p] {a b : Res} (ha : KeepsBuffers s a)
    (hb : KeepsBuffers s b) : KeepsBuffers s (if p then a else b) := by
  split
  · exact ha
  · exact hb

theorem keepsBuffers_andThen {s : State} {r : Res} {k : State → Res} (hr : KeepsBuffers s r)
    (hk : ∀ u, KeepsBuffers u (k u)) : KeepsBuffers s (andThen r k) := by
  intro t h
  obtain ⟨u, hu, ht⟩ := andThen_eq_next h
  exact (hk u).of_eq (hr u hu) t ht

theorem keepsBuffers_load {b : Buf} {i : Nat} {s u : State} {k : Byte → Res} (hk : ∀ x, KeepsBuffers s (k x)) :
    KeepsBuffers s (load b i u k) := fun t h => hk _ t (load_eq_next h).2

theorem keepsBuffers_deliver {e : Bool} {arm : State → Res} {s : State} (h : KeepsBuffers s (arm s)) :
    KeepsBuffers s (deliver e arm s) := keepsBuffers_ite h (keepsBuffers_next rfl)

theorem keepsBuffers_respond {s u : State} (d : Data) (h : u.memory = s.memory) : KeepsBuffers s (respond d u) :=
  keepsBuffers_next h

theorem keepsBuffers_reject (c : Cause) (s : State) : KeepsBuffers s (reject c s) := keepsBuffers_next rfl

theorem setDir_memory (l : Bool) (s : State) : (setDir l s).memory = s.memory := by
  funext b
  cases b <;> simp [State.memory]

theorem reportFrame_memory (n : BitVec 10) (s : State) : (reportFrame n s).memory = s.memory := by
  funext b
  cases b <;> simp [State.memory]

theorem keepsBuffers_uartPut (b : Byte) (s : State) : KeepsBuffers s (uartPut b s) := by
  intro t h
  obtain ⟨_, rfl⟩ := uartPut_eq_next h
  rfl

theorem keepsBuffers_frameBoundary (s : State) : KeepsBuffers s (frameBoundary s) := by
  have hbreak : ∀ u : State, KeepsBuffers u (putBreak (setDir true u)) := fun u =>
    (keepsBuffers_uartPut _ _).of_eq (setDir_memory true u)
  unfold frameBoundary
  split
  · exact keepsBuffers_andThen ((hbreak _).of_eq rfl) fun u => keepsBuffers_next rfl
  · exact keepsBuffers_next rfl
  · exact keepsBuffers_andThen ((hbreak _).of_eq rfl) fun u => keepsBuffers_next rfl
  · exact keepsBuffers_andThen ((hbreak _).of_eq rfl) fun u => keepsBuffers_next rfl

/-! ## The events that store nothing -/

theorem keepsBuffers_resolve (v : Verdict) (s : State) : KeepsBuffers s (resolve v s) := by
  have hback : ∀ u : State, KeepsBuffers u (handBack u) := fun u =>
    keepsBuffers_ite ((keepsBuffers_frameBoundary _).of_eq (setDir_memory true u))
      (keepsBuffers_next (setDir_memory true u))
  exact keepsBuffers_ite ((hback _).of_eq (funext (recordOutcome_memory v _ s))) (keepsBuffers_fault s _)

theorem keepsBuffers_resolveDiscovery (s : State) : KeepsBuffers s (resolveDiscovery s) := by
  refine keepsBuffers_ite (keepsBuffers_resolve _ s) (keepsBuffers_ite ?_ (keepsBuffers_fault s _))
  split
  · exact (keepsBuffers_resolve _ _).of_eq rfl
  · exact keepsBuffers_resolve _ s

theorem keepsBuffers_finishIfComplete (s : State) : KeepsBuffers s (finishIfComplete s) := by
  unfold finishIfComplete
  split
  · exact keepsBuffers_ite (keepsBuffers_resolve _ s) (keepsBuffers_next rfl)
  · exact keepsBuffers_ite (keepsBuffers_resolveDiscovery s) (keepsBuffers_next rfl)

theorem keepsBuffers_nextSlot (s : State) : KeepsBuffers s (nextSlot s) := by
  have hend : ∀ u : State, KeepsBuffers u (.next (endOfSlots u)) := fun u => by
    unfold endOfSlots
    split <;> exact keepsBuffers_next rfl
  exact keepsBuffers_ite
    (keepsBuffers_load fun b => keepsBuffers_andThen (keepsBuffers_uartPut b s) fun u => (hend _).of_eq rfl) (hend s)

theorem keepsBuffers_txReadyArm (s : State) : KeepsBuffers s (txReadyArm s) := by
  unfold txReadyArm
  split
  · exact (keepsBuffers_nextSlot _).of_eq rfl
  · exact keepsBuffers_nextSlot s
  · exact keepsBuffers_load fun b => keepsBuffers_andThen (keepsBuffers_uartPut b s) fun u =>
      keepsBuffers_ite (keepsBuffers_next rfl) (keepsBuffers_next rfl)
  all_goals exact keepsBuffers_next rfl

theorem keepsBuffers_txDoneArm (s : State) : KeepsBuffers s (txDoneArm s) := by
  unfold txDoneArm
  split
  · exact (keepsBuffers_frameBoundary _).of_eq rfl
  · exact keepsBuffers_andThen ((keepsBuffers_uartPut _ _).of_eq rfl) fun u => keepsBuffers_next rfl
  · exact keepsBuffers_andThen ((keepsBuffers_uartPut _ _).of_eq rfl) fun u => keepsBuffers_next rfl
  · exact keepsBuffers_next (setDir_memory false s)
  all_goals exact keepsBuffers_next rfl

theorem keepsBuffers_rxBreakWait (s : State) : KeepsBuffers s (rxBreakWait s) := by
  unfold rxBreakWait
  split <;> exact keepsBuffers_next rfl

theorem keepsBuffers_rxBreakFrame (s : State) : KeepsBuffers s (rxBreakFrame s) := by
  unfold rxBreakFrame
  split
  · exact keepsBuffers_next rfl
  · exact keepsBuffers_next rfl
  · exact keepsBuffers_ite (keepsBuffers_fault s _) (keepsBuffers_next (reportFrame_memory _ s))

theorem keepsBuffers_tickArm (s : State) : KeepsBuffers s (tickArm s) := by
  have htimeout : ∀ u : State, KeepsBuffers u (timeout u) := fun u => by
    refine keepsBuffers_ite (keepsBuffers_resolve _ u) ?_
    split
    · exact keepsBuffers_resolveDiscovery u
    · exact keepsBuffers_resolve _ u
  exact keepsBuffers_ite
    (keepsBuffers_ite (keepsBuffers_fault s _)
      (keepsBuffers_ite ((htimeout _).of_eq rfl) (keepsBuffers_next rfl)))
    (keepsBuffers_next rfl)

theorem keepsBuffers_shiftoutArm (s : State) : KeepsBuffers s (shiftoutArm s) := by
  unfold shiftoutArm
  split <;> exact keepsBuffers_next rfl

/-! ## Where the store targets lie -/

/-- A received byte is a response byte while a response is waited for (R200, R220). -/
theorem storeTarget_rxByte_wait {s : State} (b : Byte) (hw : s.txState = .txWaitResp) :
    storeTarget (.rxByte b) s = some (.rxPkt, s.rxIdx.toNat) := if_pos hw

/-- Otherwise it is a start code or a slot (R200, R205, R206). -/
theorem storeTarget_rxByte_frame {s : State} (b : Byte) (hw : s.txState ≠ .txWaitResp) :
    storeTarget (.rxByte b) s = some (.rxFrame, if s.rxState = .rxStart then 0 else s.rxIdx.toNat) := by
  by_cases hr : s.rxState = .rxStart <;> simp [storeTarget, hw, hr]

theorem storeTarget_command {i : Instr} {s : State} {b : Buf} {j : Nat} (hi : isCommand i = true)
    (h : storeTarget i s = some (b, j)) : b = .txFrame ∨ b = .txPkt := by
  cases i with
  | setslot => cases h; exact .inl rfl
  | pktwr => cases h; exact .inr rfl
  | rxByte => cases hi
  | _ => cases h

theorem storeTarget_event {i : Instr} {s : State} {b : Buf} {j : Nat} (hi : isCommand i = false)
    (h : storeTarget i s = some (b, j)) : b = .rxFrame ∨ b = .rxPkt := by
  cases i with
  | setslot | pktwr => cases hi
  | rxByte x =>
    by_cases hw : s.txState = .txWaitResp
    · cases (storeTarget_rxByte_wait x hw).symm.trans h
      exact .inr rfl
    · cases (storeTarget_rxByte_frame x hw).symm.trans h
      exact .inl rfl
  | _ => cases h

/-! ## The instructions that store nothing -/

theorem keepsBuffers_whenStartable {s : State} {k : Res} (hk : KeepsBuffers s k) :
    KeepsBuffers s (whenStartable s k) :=
  keepsBuffers_ite (keepsBuffers_reject _ s) (keepsBuffers_ite (keepsBuffers_reject _ s)
    (keepsBuffers_ite (keepsBuffers_reject _ s) hk))

/-- An instruction without a store target leaves all four buffers as they were (R71). -/
theorem exec_keepsBuffers {i : Instr} {s : State} (hi : storeTarget i s = none) : KeepsBuffers s (exec i s) := by
  have hrej : ∀ c : Cause, KeepsBuffers s (reject c s) := fun c => keepsBuffers_reject c s
  have hresp : ∀ (d : Data) {u : State}, u.memory = s.memory → KeepsBuffers s (respond d u) :=
    fun d => keepsBuffers_respond d
  have hboundary : ∀ u : State, u.memory = s.memory → KeepsBuffers s (andThen (frameBoundary u) (respond 0)) :=
    fun u hu => keepsBuffers_andThen ((keepsBuffers_frameBoundary u).of_eq hu) fun v => keepsBuffers_respond 0 rfl
  cases i with
  | getslot a => exact keepsBuffers_ite (keepsBuffers_load fun x => hresp _ rfl) (hrej _)
  | rxslot a => exact keepsBuffers_ite (keepsBuffers_load fun x => hresp _ rfl) (hrej _)
  | pktrd a => exact keepsBuffers_ite (keepsBuffers_load fun x => hresp _ rfl) (hrej _)
  | rddisc a => exact keepsBuffers_ite (hresp _ rfl) (hrej _)
  | setcount | getcount | rdrxlen | nexttn | rdpktlen | rdstatus | clrflag => exact hresp _ rfl
  | startout => exact keepsBuffers_whenStartable (hboundary _ rfl)
  | startin => exact keepsBuffers_whenStartable (hresp _ (setDir_memory false _))
  | stop => exact keepsBuffers_ite (hrej _) (hresp _ rfl)
  | setdirpin a => exact keepsBuffers_ite (hresp _ rfl) (hresp _ rfl)
  | sethook a f => exact keepsBuffers_ite (hresp _ rfl) (keepsBuffers_ite (hresp _ rfl) (hrej _))
  | sendtxn f =>
    exact keepsBuffers_ite (hrej _) <| keepsBuffers_ite (hrej _) <| keepsBuffers_ite (hrej _) <|
      keepsBuffers_ite (hrej _) <| keepsBuffers_ite (hboundary _ rfl) (hresp _ rfl)
  | txReady => exact keepsBuffers_deliver (keepsBuffers_txReadyArm s)
  | txDone =>
    exact keepsBuffers_deliver (arm := fun u => txDoneArm { u with txc := false })
      ((keepsBuffers_txDoneArm _).of_eq rfl)
  | rxBreak =>
    have hdispatch : KeepsBuffers s (rxDispatch rxBreakWait rxBreakFrame (emit .rxBrk s)) :=
      keepsBuffers_ite (keepsBuffers_rxBreakWait _) (keepsBuffers_ite (keepsBuffers_rxBreakFrame _)
        (keepsBuffers_next rfl))
    exact keepsBuffers_deliver (arm := fun u => rxDispatch rxBreakWait rxBreakFrame (emit .rxBrk u)) hdispatch
  | tick => exact keepsBuffers_deliver (keepsBuffers_tickArm s)
  | shiftout => exact keepsBuffers_deliver (keepsBuffers_shiftoutArm s)
  | setslot | pktwr => cases hi
  | rxByte b =>
    by_cases hw : s.txState = .txWaitResp
    · cases (storeTarget_rxByte_wait b hw).symm.trans hi
    · cases (storeTarget_rxByte_frame b hw).symm.trans hi

/-! ## Storing at the target -/

/-- A next state of `r` has the buffers of `s` but for one byte at most, the one at `c`; slot 0 of `TXFRAME` is never
that byte (R71, R140). -/
def StoresAt (c : Option (Buf × Nat)) (s : State) (r : Res) : Prop :=
  ∀ t, r = .next t → t.memory = s.memory ∨
    ∃ b j x, c = some (b, j) ∧ (b, j) ≠ (.txFrame, 0) ∧ t.memory = (s.withByte b j x).memory

theorem KeepsBuffers.storesAt {s : State} {r : Res} (h : KeepsBuffers s r) (c : Option (Buf × Nat)) : StoresAt c s r :=
  fun t ht => .inl (h t ht)

theorem withByte_memory_eq_update (s : State) (b : Buf) (j : Nat) (x : Byte) :
    (s.withByte b j x).memory = Function.update s.memory b ((s.memory b).write j x) := by
  funext c
  cases b <;> cases c <;> rfl

theorem StoresAt.of_eq {c : Option (Buf × Nat)} {s u : State} {r : Res} (h : StoresAt c u r)
    (hm : u.memory = s.memory) : StoresAt c s r := by
  unfold StoresAt at h ⊢
  simpa only [withByte_memory_eq_update, hm] using h

/-- A byte written, and after it nothing more. -/
theorem storesAt_of_withByte {b : Buf} {j : Nat} {x : Byte} {s u : State} {r : Res} (hslot : (b, j) ≠ (.txFrame, 0))
    (hu : u.memory = (s.withByte b j x).memory) (h : KeepsBuffers u r) : StoresAt (some (b, j)) s r :=
  fun t ht => .inr ⟨b, j, x, rfl, hslot, (h t ht).trans hu⟩

theorem storesAt_store {b : Buf} {j : Nat} (hslot : (b, j) ≠ (.txFrame, 0)) (x : Byte) (d : Data) (s : State) :
    StoresAt (some (b, j)) s (andThen (store b j x s) (respond d)) := by
  intro t h
  obtain ⟨u, hu, ht⟩ := andThen_eq_next h
  obtain ⟨_, rfl⟩ := store_eq_next hu
  exact storesAt_of_withByte hslot rfl (keepsBuffers_respond d rfl) t ht

/-- The response byte goes to `RXPKT[RXIDX]`, or nowhere when `RXPKT` is full (R220). -/
theorem storesAt_rxByteWait (b : Byte) (s : State) : StoresAt (some (.rxPkt, s.rxIdx.toNat)) s (rxByteWait b s) := by
  have hfinish := keepsBuffers_finishIfComplete (storeResponseByte b s)
  by_cases hroom : s.rxIdx.toNat < 256
  · exact storesAt_of_withByte (x := b) nofun (by rw [storeResponseByte_room b hroom]; rfl) hfinish
  · exact (hfinish.of_eq (by rw [storeResponseByte_full b hroom]; rfl)).storesAt _

/-- The start code goes to `RXFRAME[0]`, a slot to `RXFRAME[RXIDX]`, a byte before the break or beyond the buffer
nowhere (R204 to R206). -/
theorem storesAt_rxByteFrame (b : Byte) (s : State) :
    StoresAt (some (.rxFrame, if s.rxState = .rxStart then 0 else s.rxIdx.toNat)) s (rxByteFrame b s) := by
  cases hr : s.rxState with
  | rxIdle =>
    rw [rxByteFrame_idle b hr]
    exact (keepsBuffers_next rfl).storesAt _
  | rxStart =>
    rw [rxByteFrame_start b hr]
    exact storesAt_of_withByte (x := b) nofun rfl (keepsBuffers_next rfl)
  | rxReceiving =>
    by_cases hi : s.rxIdx.toNat ≤ 512
    · rw [rxByteFrame_slot b hr hi]
      exact storesAt_of_withByte (x := b) nofun rfl (keepsBuffers_next rfl)
    · rw [rxByteFrame_full b hr hi]
      exact (keepsBuffers_next rfl).storesAt _

theorem storesAt_ite {c : Option (Buf × Nat)} {s : State} {p : Prop} [Decidable p] {a b : Res}
    (ha : p → StoresAt c s a) (hb : ¬p → StoresAt c s b) : StoresAt c s (if p then a else b) := by
  split
  · exact ha ‹_›
  · exact hb ‹_›

/-- Every instruction stores at its target or nowhere: `SETSLOT` and `PKTWR` after the tests of their operands,
`RX_BYTE` as its dispatch goes, on `TXSTATE` before `TASKMODE` (R71, R140, R146, R200). -/
theorem exec_storesAt (i : Instr) (s : State) : StoresAt (storeTarget i s) s (exec i s) := by
  have hrej : ∀ (c : Option (Buf × Nat)) (e : Cause), StoresAt c s (reject e s) := fun c e =>
    (keepsBuffers_reject e s).storesAt c
  have hsame : ∀ (c : Option (Buf × Nat)) (u : State), u.memory = s.memory → StoresAt c s (.next u) :=
    fun c u hu => (keepsBuffers_next hu).storesAt c
  cases i with
  | setslot a v =>
    refine storesAt_ite (fun hr => ?_) fun _ => hrej _ _
    obtain ⟨hpos, _⟩ := (slotInRange_iff a s).1 hr
    exact storesAt_store (b := .txFrame) (j := a.toNat) (by simp only [ne_eq, Prod.mk.injEq, true_and]; omega) v 0 s
  | pktwr a v =>
    exact storesAt_ite (fun _ => hrej _ _) fun _ => storesAt_ite
      (fun _ => storesAt_store (b := .txPkt) (j := a.toNat) (by simp) v 0 s) fun _ => hrej _ _
  | rxByte b =>
    refine storesAt_ite (fun _ => ?_) fun _ => hsame _ _ rfl
    refine storesAt_ite (fun hw => ?_) fun hw => storesAt_ite (fun _ => ?_) fun _ => hsame _ _ rfl
    · rw [storeTarget_rxByte_wait (s := s) b hw]
      exact (storesAt_rxByteWait b (emit (.rx b) s)).of_eq rfl
    · rw [storeTarget_rxByte_frame (s := s) b hw]
      exact (storesAt_rxByteFrame b (emit (.rx b) s)).of_eq rfl
  | _ => exact (exec_keepsBuffers rfl).storesAt _

/-! ## The frame -/

/-- A byte that is not the target reads as before, and so does slot 0 of `TXFRAME` even as the target. -/
theorem StoresAt.byteAt_eq {c : Option (Buf × Nat)} {s t : State} {r : Res} (h : StoresAt c s r) (ht : r = .next t)
    {b : Buf} {k : Nat} (hc : c = some (b, k) → (b, k) = (.txFrame, 0)) : t.byteAt b k = s.byteAt b k := by
  rcases h t ht with hm | ⟨c', j, x, rfl, hslot, hm⟩
  · rw [State.byteAt, hm, ← State.byteAt]
  · have hother : (b, k) ≠ (c', j) := by
      rintro ⟨⟩
      exact hslot (hc rfl)
    rw [State.byteAt, hm, ← State.byteAt, State.byteAt_withByte_other hother]

/-- Settles O15, from `exec_storesAt` and the buffers a target can lie in. -/
theorem storesOnlyAtTarget : Obligations.StoresOnlyAtTarget := by
  intro i s t h
  have hkeep : ∀ (b : Buf) (k : Nat), storeTarget i s ≠ some (b, k) → t.byteAt b k = s.byteAt b k :=
    fun b k hk => (exec_storesAt i s).byteAt_eq h fun he => absurd he hk
  refine ⟨hkeep, (exec_storesAt i s).byteAt_eq h fun _ => rfl, fun hi k => ?_, fun hi k => ?_⟩
  · exact ⟨hkeep _ k fun he => by simpa using storeTarget_command hi he,
      hkeep _ k fun he => by simpa using storeTarget_command hi he⟩
  · exact ⟨hkeep _ k fun he => by simpa using storeTarget_event hi he,
      hkeep _ k fun he => by simpa using storeTarget_event hi he⟩

end Sys2Proof.Machine
end

section
/-! The wire form of a frame, for the schedule in which each byte leaves before the next is handed over (R105, R191 a):
the break, the start code, then slot after slot. -/

namespace Sys2Proof.Machine

/-! ## Runs over a few inputs -/

theorem runInputs_append (xs ys : List Input) (s : State) :
    runInputs (xs ++ ys) s = andThen (runInputs xs s) (runInputs ys) := by
  induction xs generalizing s with
  | nil => rfl
  | cons x rest ih =>
    simp only [List.cons_append, runInputs]
    cases runInput x s <;> simp [ih]

/-- An instruction's words run what the engine reads from them (R100 to R103, R171). -/
theorem runInput_encode (i : Instr) (s : State) : runInput (encode i) s = exec i.asRead s :=
  runInput_ok (decode_encode i) s

/-- The last pair held leaves the wire, and transmission is complete (R182). -/
theorem exec_shiftout_last {s : State} {p : TxPair} (hq : s.txq = [p]) :
    exec .shiftout s = .next { s with trace := s.trace ++ [p.sym], txq := [], txc := true } := by
  simp [exec, execShiftout, State.shiftoutEnabled, deliver, shiftoutArm, hq, emit]

/-! ## The slots of a frame -/

/-- The next slot of a frame can be handed over: `TX_READY` is enabled with nothing held, and the engine is in `TX_START`
or `TX_DATA` at data baud (R186, R187). -/
structure SlotDue (s : State) : Prop where
  run : s.run = true
  ieTxRdy : s.ieTxRdy = true
  drained : s.txq = []
  baud : s.baudSel = .data
  phase : s.txState = .txStart ∨ s.txState = .txData
  ceiling : s.slotCount.toNat ≤ 512

/-- The state once the slot at `TXIDX` is handed over, before the end of the frame is looked for (R187). -/
def slotHanded (s : State) : State :=
  { s with
    txState := .txData, txIdx := s.txIdx + 1#10, txq := [⟨s.byteAt .txFrame s.txIdx.toNat, .data⟩], txc := false }

/-- The state once the slot at `TXIDX` has left the wire, before the end of the frame is looked for (R182, R187). -/
def slotSent (s : State) : State :=
  { s with
    trace := s.trace ++ [.tx (s.byteAt .txFrame s.txIdx.toNat)], txState := .txData, txIdx := s.txIdx + 1#10
    txq := [], txc := true }

theorem slotSent_txIdx {s : State} (h : s.txIdx.toNat ≤ 512) : (slotSent s).txIdx.toNat = s.txIdx.toNat + 1 :=
  toNat_add_one_of_lt (Nat.lt_succ_of_le h) (by decide)

theorem SlotDue.next {s : State} (h : SlotDue s) : SlotDue (slotSent s) :=
  { h with drained := rfl, phase := .inr rfl }

/-- A slot that is left is handed over (R187). -/
theorem nextSlot_left {s : State} (hidx : s.txIdx.toNat ≤ s.slotCount.toNat) (hceil : s.slotCount.toNat ≤ 512)
    (hroom : s.txq.length < 2) :
    nextSlot s = .next (endOfSlots { s with
      txq := s.txq ++ [⟨s.byteAt .txFrame s.txIdx.toNat, s.baudSel⟩], txc := false, txIdx := s.txIdx + 1#10 }) := by
  have hin : s.txIdx.toNat < Buf.size .txFrame := Nat.lt_succ_of_le (hidx.trans hceil)
  rw [nextSlot, if_pos hidx, load_inside hin, uartPut_room hroom, andThen_next]

/-- `TX_READY` hands over the slot due (R186, R187). -/
theorem SlotDue.exec_txReady {s : State} (h : SlotDue s) (hidx : s.txIdx.toNat ≤ s.slotCount.toNat) :
    exec .txReady s = .next (endOfSlots (slotHanded s)) := by
  have hroom : s.txq.length < 2 := by simp [h.drained]
  rw [exec_txReady_enabled h.run h.ieTxRdy hroom, txReadyArm_slot h.phase,
    nextSlot_left (s := { s with txState := .txData }) hidx h.ceiling hroom]
  simp [slotHanded, h.drained, h.baud, State.byteAt, State.memory]

/-- The end of the frame is looked for in `TXIDX` and `SLOTCOUNT`, which `SHIFTOUT` does not write (R182, R187). -/
theorem exec_shiftout_endOfSlots {s : State} {p : TxPair} (hq : s.txq = [p]) :
    exec .shiftout (endOfSlots s) =
      .next (endOfSlots { s with trace := s.trace ++ [p.sym], txq := [], txc := true }) := by
  unfold endOfSlots
  split <;> exact exec_shiftout_last hq

/-- `SHIFTOUT` puts the slot on the wire, at the end of the frame or not (R182). -/
theorem exec_shiftout_slotHanded (s : State) :
    exec .shiftout (endOfSlots (slotHanded s)) = .next (endOfSlots (slotSent s)) :=
  exec_shiftout_endOfSlots (s := slotHanded s) rfl

/-- One slot is handed over and leaves the wire (R187, R182). -/
theorem SlotDue.runInputs_oneByte {s : State} (h : SlotDue s) (hidx : s.txIdx.toNat ≤ s.slotCount.toNat) :
    runInputs oneByte s = .next (endOfSlots (slotSent s)) := by
  simp only [oneByte, runInputs, runInput_encode, Instr.asRead, h.exec_txReady hidx, exec_shiftout_slotHanded,
    andThen_next]

/-- The frame goes on after a slot that is not the last (R187). -/
theorem endOfSlots_slotSent_more {s : State} (hidx : s.txIdx.toNat < s.slotCount.toNat)
    (hceil : s.slotCount.toNat ≤ 512) : endOfSlots (slotSent s) = slotSent s := by
  refine if_neg ?_
  rw [slotSent_txIdx (by omega)]
  exact Nat.not_lt_of_le hidx

/-- The last slot brings the end of the frame (R187). -/
theorem endOfSlots_slotSent_last {s : State} (hidx : s.txIdx = s.slotCount) (hceil : s.slotCount.toNat ≤ 512) :
    endOfSlots (slotSent s) = { slotSent s with txState := .txIdle, ieTxRdy := false, ieTxDone := true } := by
  refine if_pos ?_
  rw [slotSent_txIdx (hidx ▸ hceil), hidx]
  exact Nat.lt_succ_self _

/-- The remaining slots, by induction on how many come after the one due; the last brings the end of the frame (R187,
R105). -/
theorem SlotDue.runInputs_manyBytes {n : Nat} {s : State} (h : SlotDue s)
    (hleft : s.txIdx.toNat + n = s.slotCount.toNat) :
    runInputs (manyBytes (n + 1)) s = .next { s with
      trace := s.trace ++ (List.range (n + 1)).map fun k => .tx (s.byteAt .txFrame (s.txIdx.toNat + k))
      txState := .txIdle, txIdx := s.slotCount + 1#10, txq := [], txc := true, ieTxRdy := false
      ieTxDone := true } := by
  have hceil := h.ceiling
  induction n generalizing s with
  | zero =>
    have hidx : s.txIdx = s.slotCount := BitVec.eq_of_toNat_eq hleft
    rw [manyBytes, runInputs_append, h.runInputs_oneByte (Nat.le_of_eq hleft), andThen_next,
      endOfSlots_slotSent_last hidx hceil]
    simp [manyBytes, runInputs, slotSent, hidx]
  | succ n ih =>
    have hnext : (slotSent s).txIdx.toNat = s.txIdx.toNat + 1 := slotSent_txIdx (by omega)
    have hleft' : (slotSent s).txIdx.toNat + n = (slotSent s).slotCount.toNat := by
      rw [hnext, Nat.add_right_comm]
      exact hleft
    rw [manyBytes, runInputs_append, h.runInputs_oneByte (by omega), andThen_next,
      endOfSlots_slotSent_more (by omega) hceil, ih h.next hleft' hceil, hnext, List.range_succ_eq_map (n := n + 1)]
    simp [slotSent, State.byteAt, State.memory, Nat.add_assoc, Nat.add_comm 1]

/-! ## The break and the start code -/

/-- `TX_DONE` after the break hands over the start code (R185). -/
theorem exec_txDone_break {s : State} (hrun : s.run = true) (hdone : s.ieTxDone = true) (hc : s.txc = true)
    (hphase : s.txState = .txBreak) (hq : s.txq = []) :
    exec .txDone s = .next { s with
      baudSel := .data, txq := [⟨s.byteAt .txFrame 0, .data⟩], txc := false, txIdx := 1#10, txState := .txStart
      ieTxDone := false, ieTxRdy := true } := by
  rw [exec_txDone_enabled hrun hdone hc, txDoneArm_break (s := { s with txc := false }) hphase, txDoneBreak,
    uartPut_room (s := { s with txc := false, baudSel := .data }) (by simp [hq]), andThen_next]
  simp [hq, State.byteAt, State.memory]

/-- The state once the break and the start code have left the wire: the first slot is due (R185, R186). -/
def startCodeSent (s : State) : State :=
  { s with
    trace := s.trace ++ [.brk, .tx (s.byteAt .txFrame 0)], txState := .txStart, txIdx := 1#10, txq := [], txc := true
    baudSel := .data, ieTxRdy := true, ieTxDone := false }

theorem runInputs_startCode {s : State} (hrun : s.run = true) (hphase : s.txState = .txBreak)
    (hdone : s.ieTxDone = true) (hq : s.txq = [⟨0x00#8, .brk⟩]) :
    runInputs [encode .shiftout, encode .txDone, encode .shiftout] s = .next (startCodeSent s) := by
  simp only [runInputs, runInput_encode, Instr.asRead]
  rw [exec_shiftout_last hq, andThen_next, exec_txDone_break (by exact hrun) (by exact hdone) rfl (by exact hphase) rfl,
    andThen_next, exec_shiftout_last rfl, andThen_next]
  simp [startCodeSent, TxPair.sym, State.byteAt, State.memory]

theorem slotDue_startCodeSent {s : State} (hrun : s.run = true) (hceil : s.slotCount.toNat ≤ 512) :
    SlotDue (startCodeSent s) where
  run := hrun
  ieTxRdy := rfl
  drained := rfl
  baud := rfl
  phase := .inl rfl
  ceiling := hceil

/-- Settles O54: the break and the start code (`runInputs_startCode`), then all the slots
(`SlotDue.runInputs_manyBytes`), of which there is at least one (R51 I8). -/
theorem frameOnTheWire : Obligations.FrameOnTheWire := by
  intro s hI hrun hphase hdone hq
  have hceil : s.slotCount.toNat ≤ 512 := hI.slotCeiling
  obtain ⟨n, hn⟩ : ∃ n, s.slotCount.toNat = n + 1 :=
    Nat.exists_eq_add_one.2 (slotsMin_bounds.1.trans hI.slotFloor)
  have hleft : (startCodeSent s).txIdx.toNat + n = (startCodeSent s).slotCount.toNat := by
    show 1 + n = s.slotCount.toNat
    omega
  rw [runInputs_append, runInputs_startCode hrun hphase hdone hq, andThen_next, hn,
    (slotDue_startCodeSent hrun hceil).runInputs_manyBytes hleft]
  simp [startCodeSent, frameSyms, State.byteAt, State.memory, Nat.add_comm]

end Sys2Proof.Machine
end

section
/-! Decoding and dispatch (R100 to R104, R171): the words the encoder writes, the opcodes and event kinds that are listed,
and what becomes of the rest. -/

namespace Sys2Proof

open Machine

/-- An instruction with no ignored bit set is read as it stands (R104, log 11). -/
theorem Instr.asRead_of_wf {i : Instr} (h : i.wf = true) : i.asRead = i := by
  cases i with
  | sethook a v => exact congrArg (Instr.sethook a) (eq_of_beq h)
  | sendtxn v => exact congrArg Instr.sendtxn (eq_of_beq h)
  | clrflag v => exact congrArg Instr.clrflag (eq_of_beq h)
  | _ => rfl

/-- Settles O1: an encoded instruction decodes to what the engine reads of it (`decode_encode`), and of a well-formed one
that is all of it. -/
theorem decodeOfEncode : Obligations.DecodeOfEncode := by
  intro i hwf
  rw [decode_encode, Instr.asRead_of_wf hwf]

/-- Settles O4: each word is the one the encoder writes for a well-formed instruction. -/
theorem sampleWords : Obligations.SampleWords := by
  have hread : ∀ (x : Input) (i : Instr), encode i = x → i.wf = true → decode x = .ok i := by
    rintro _ i rfl hwf
    exact decodeOfEncode i hwf
  exact ⟨hread _ _ rfl rfl, hread _ _ rfl rfl, hread _ _ rfl rfl, hread _ _ rfl rfl, hread _ _ rfl rfl,
    hread _ _ rfl rfl, hread _ _ rfl rfl⟩

/-! ## Command words -/

/-- The opcodes of R103. -/
def listedOps : List Byte :=
  [0x01#8, 0x02#8, 0x03#8, 0x04#8, 0x05#8, 0x06#8, 0x10#8, 0x11#8, 0x12#8, 0x13#8, 0x14#8, 0x20#8, 0x21#8, 0x22#8,
    0x23#8, 0x24#8, 0x25#8, 0x30#8, 0x31#8]

/-- A listed opcode is a well-formed command whatever the other two fields hold (R103, R104). -/
theorem decodeFields_listed {op : Byte} (hop : op ∈ listedOps) (a : Half) (v : Byte) :
    ∃ i, decodeFields op a v = .ok i ∧ isCommand i = true ∧ i.wf = true := by
  simp only [listedOps, List.mem_cons, List.not_mem_nil, or_false] at hop
  rcases hop with rfl | rfl | rfl | rfl | rfl | rfl | rfl | rfl | rfl | rfl | rfl | rfl | rfl | rfl | rfl | rfl | rfl |
    rfl | rfl
  all_goals exact ⟨_, rfl, rfl, by simp [Instr.wf, BitVec.and_assoc]⟩

/-- Any other opcode is none (R104, R171). -/
theorem decodeFields_unlisted {op : Byte} (hop : op ∉ listedOps) (a : Half) (v : Byte) :
    decodeFields op a v = .error (.badOpcode op) := by
  simp only [listedOps, List.mem_cons, List.not_mem_nil, or_false, not_or, ← BitVec.toNat_inj] at hop
  unfold decodeFields
  split
  case h_20 => rfl
  all_goals simp_all

/-- A command word of a listed opcode runs a well-formed command (R171). -/
theorem runInput_host_listed {w : CmdWord} (hop : cmdOp w ∈ listedOps) :
    ∃ i, decode (.host w) = .ok i ∧ isCommand i = true ∧ i.wf = true ∧ ∀ s, runInput (.host w) s = exec i s := by
  obtain ⟨i, hdec, hcmd, hwf⟩ := decodeFields_listed hop (cmdA w) (cmdV w)
  exact ⟨i, hdec, hcmd, hwf, runInput_ok hdec⟩

/-- A command word of any other opcode is rejected (R104, R171). -/
theorem runInput_host_unlisted {w : CmdWord} (hop : cmdOp w ∉ listedOps) (s : State) :
    runInput (.host w) s = reject .badOpcode s := by
  have hdec : decode (.host w) = .error (.badOpcode (cmdOp w)) := decodeFields_unlisted hop _ _
  simp [runInput, hdec, execUndecoded]

/-- Settles O2, by whether the opcode is listed. -/
theorem commandDispatch : Obligations.CommandDispatch := by
  intro w s
  refine ⟨(cmdWord_fields w).symm, ?_⟩
  split
  next hop =>
    obtain ⟨i, hdec, hcmd, hwf, hrun⟩ := runInput_host_listed (w := w) hop
    exact ⟨i, hdec, hcmd, hwf, hrun s⟩
  next hop => exact runInput_host_unlisted (w := w) hop s

/-! ## Event words -/

/-- The kinds of R102. -/
def listedKinds : List Byte := [0x01#8, 0x02#8, 0x03#8, 0x04#8, 0x05#8, 0x06#8]

/-- Every other kind is 0 or above 6. -/
theorem notMem_listedKinds {k : Byte} (hk : k ∉ listedKinds) : k = 0#8 ∨ 6 < k.toNat := by
  simp only [listedKinds, List.mem_cons, List.not_mem_nil, or_false, not_or] at hk
  bv_omega

/-- A word of a listed kind is an event whatever its data (R102). -/
theorem decode_event_listed {w : EvWord} (hk : evKind w ∈ listedKinds) : ∃ i, decode (.event w) = .ok i := by
  simp only [listedKinds, List.mem_cons, List.not_mem_nil, or_false] at hk
  rcases hk with hk | hk | hk | hk | hk | hk
  all_goals exact ⟨_, by rw [decode, decodeEvent, hk]; rfl⟩

/-- A word of any other kind is none (R104). -/
theorem decodeEvent_unlisted {w : EvWord} (hk : evKind w ∉ listedKinds) :
    decodeEvent w = .error (.badEventKind (evKind w)) := by
  simp only [listedKinds, List.mem_cons, List.not_mem_nil, or_false, not_or, ← BitVec.toNat_inj] at hk
  unfold decodeEvent
  split
  case h_7 => rfl
  all_goals simp_all

/-- A word of any other kind is refused (R104, log 10). -/
theorem runInput_event_unlisted {w : EvWord} (hk : evKind w ∉ listedKinds) (s : State) :
    runInput (.event w) s = .refused (.unlistedEventKind (evKind w)) := by
  have hdec : decode (.event w) = .error (.badEventKind (evKind w)) := decodeEvent_unlisted hk
  simp [runInput, hdec, execUndecoded]

/-- Settles O3: a listed kind decides on the fields read back (`evKind_evWord`, `evData_evWord`), any other is refused
(`runInput_event_unlisted`). -/
theorem eventDispatch : Obligations.EventDispatch := by
  refine ⟨fun d => ?_, fun w s => ⟨(evWord_fields w).symm, fun hk => runInput_event_unlisted (w := w) hk s⟩⟩
  simp [decode, decodeEvent, evKind_evWord, evData_evWord]

/-! ## Steps -/

/-- In a state of the invariant an input goes on or is an event word of an unlisted kind (R104, R287). -/
theorem completes_runInput {x : Input} {s : State} (hI : Inv s) :
    Completes (runInput x s) ∨ ∃ w, x = .event w ∧ evKind w ∉ listedKinds := by
  have hok : ∀ {i}, decode x = .ok i → Completes (runInput x s) := fun {i} hdec => by
    rw [runInput_ok hdec]
    exact everyInstructionCompletes i s hI
  cases x with
  | host w =>
    by_cases hop : cmdOp w ∈ listedOps
    · obtain ⟨i, hdec, _⟩ := runInput_host_listed hop
      exact .inl (hok hdec)
    · rw [runInput_host_unlisted hop]
      exact .inl (completes_reject _ s)
  | event w =>
    by_cases hk : evKind w ∈ listedKinds
    · obtain ⟨i, hdec⟩ := decode_event_listed hk
      exact .inl (hok hdec)
    · exact .inr ⟨w, rfl, hk⟩

/-- Settles O10: with no input nothing happens, and an input taken off the schedule goes on unless it is an event word of
an unlisted kind (`completes_runInput`). -/
theorem stepStopsOnlyAtUnlistedKind : Obligations.StepStopsOnlyAtUnlistedKind := by
  intro s hI
  cases hsched : s.schedule with
  | nil => exact .inl ⟨s, step_nil hsched⟩
  | cons x rest =>
    have hI' : Inv { s with schedule := rest } := { hI with }
    rw [step_cons hsched]
    rcases completes_runInput (x := x) hI' with hgo | ⟨w, rfl, hk⟩
    · exact .inl hgo
    · exact .inr ⟨w, rest, rfl, notMem_listedKinds hk, runInput_event_unlisted hk _⟩

end Sys2Proof
end

section
/-! The response word a command leaves, and that an event leaves it alone (R101, R102, R170, R271). -/

namespace Sys2Proof.Machine

/-- An accepted command's response word has `CAUSE = 0` (R101). -/
theorem respCause_okWord (d : Data) : respCause (okWord d) = 0#4 := by
  apply BitVec.eq_of_getLsbD_eq
  simp [respCause, okWord]

/-- The cause codes are 1 to 8 (R271). -/
theorem Cause.code_bounds (c : Cause) : 1 ≤ c.code.toNat ∧ c.code.toNat ≤ 8 := by
  cases c <;> decide

theorem rejWord_eq (c : Cause) : rejWord c = 1#32 <<< 31 ||| BitVec.ofNat 32 c.code.toNat <<< 27 := by
  rw [rejWord, BitVec.ofNat_toNat]

/-- Settles O13: a command rejects or answers (`exec_command_answers`), an event keeps the word
(`exec_event_keepsHost`). -/
theorem responseWords : Obligations.ResponseWords := by
  intro i s t h
  cases hi : isCommand i with
  | false => exact (exec_event_keepsHost hi s t h).2
  | true =>
    rcases exec_command_answers hi s t h with ⟨c, rfl⟩ | ⟨_, d, hd⟩
    · have hrej : (rejWord c).getLsbD 31 = true := respRej_rejWord c
      obtain ⟨hlo, hhi⟩ := c.code_bounds
      exact ⟨rejWord c, rfl, fun h0 => absurd (hrej.symm.trans h0) nofun,
        fun _ => ⟨rfl, c.code.toNat, hlo, hhi, rejWord_eq c⟩⟩
    · have hacc : (okWord d).getLsbD 31 = false := respRej_okWord d
      exact ⟨okWord d, hd, fun _ => respCause_okWord d, fun h1 => absurd (hacc.symm.trans h1) nofun⟩

end Sys2Proof.Machine
end

section
/-! The buffer access commands (R140 to R149): what each answers inside its bounds and outside them. -/

namespace Sys2Proof.Machine

/-! ## Answers -/

theorem reject_range (s : State) :
    reject .range s = .next { s with cmdErr := true, resp := some 0x90000000#32 } := by
  rw [reject_eq, show rejWord .range = 0x90000000#32 by decide]

theorem reject_busy (s : State) :
    reject .busy s = .next { s with cmdErr := true, resp := some 0x98000000#32 } := by
  rw [reject_eq, show rejWord .busy = 0x98000000#32 by decide]

/-- A value no wider than `DATA` is returned zero-extended, and nothing else changes (R101). -/
theorem respond_setWidth {w : Nat} (x : BitVec w) (hw : w ≤ 27) (s : State) :
    respond (x.setWidth 27) s = .next { s with resp := some (x.setWidth 32) } := by
  rw [respond_eq, okWord_setWidth x hw]

/-- A count below `2 ^ 27` is returned as it is (R101). -/
theorem okWord_ofNat {n : Nat} (h : n < 2 ^ 27) : okWord (BitVec.ofNat 27 n) = BitVec.ofNat 32 n := by
  apply BitVec.eq_of_toNat_eq
  simp only [okWord, BitVec.toNat_setWidth, BitVec.toNat_ofNat, Nat.mod_eq_of_lt h]

/-! ## Bounded reads and writes -/

/-- A byte read inside its buffer is returned zero-extended, and nothing else changes (R70, R101). -/
theorem load_respondByte {b : Buf} {i : Nat} (hi : i < b.size) (s : State) :
    load b i s (fun x => respondByte x s) = .next { s with resp := some ((s.byteAt b i).setWidth 32) } := by
  rw [load_inside hi, respondByte, respond_setWidth _ (by decide)]

/-- A byte written inside its buffer is answered with 0 (R70, R101). -/
theorem store_respond {b : Buf} {i : Nat} (hi : i < b.size) (v : Byte) (s : State) :
    andThen (store b i v s) (respond 0) = .next { s.withByte b i v with resp := some 0#32 } := by
  rw [store_inside hi, andThen_next, respond_eq, okWord_zero]

/-- A byte written to a canonical buffer is read back, and its neighbours stay (R70). -/
theorem byteAt_withByte {s : State} {b : Buf} (hwf : (s.memory b).wf = true) (i : Nat) (v : Byte) :
    (s.withByte b i v).byteAt b i = v ∧ ∀ k, k ≠ i → (s.withByte b i v).byteAt b k = s.byteAt b k :=
  ⟨State.byteAt_withByte_same hwf i v, fun k hk => State.byteAt_withByte_other (by simpa using hk) s v⟩

/-! ## The slots (R140, R141) -/

theorem exec_setslot_inside {a : Half} {s : State} (hlo : 1 ≤ a.toNat) (hhi : a.toNat ≤ s.slotCount.toNat)
    (hceil : s.slotCount.toNat ≤ 512) (v : Byte) :
    exec (.setslot a v) s = .next { s.withByte .txFrame a.toNat v with resp := some 0#32 } := by
  have hbuf : a.toNat < Buf.size .txFrame := Nat.lt_succ_of_le (hhi.trans hceil)
  simp only [exec, execSetslot, (slotInRange_iff a s).2 ⟨hlo, hhi⟩, if_true, store_respond hbuf]

theorem exec_setslot_outside {a : Half} {s : State} (h : ¬(1 ≤ a.toNat ∧ a.toNat ≤ s.slotCount.toNat)) (v : Byte) :
    exec (.setslot a v) s = .next { s with cmdErr := true, resp := some 0x90000000#32 } := by
  simp only [exec, execSetslot, slotInRange_iff, if_neg h, reject_range]

theorem exec_getslot_inside {a : Half} {s : State} (hlo : 1 ≤ a.toNat) (hhi : a.toNat ≤ s.slotCount.toNat)
    (hceil : s.slotCount.toNat ≤ 512) :
    exec (.getslot a) s = .next { s with resp := some ((s.byteAt .txFrame a.toNat).setWidth 32) } := by
  have hbuf : a.toNat < Buf.size .txFrame := Nat.lt_succ_of_le (hhi.trans hceil)
  simp only [exec, execGetslot, (slotInRange_iff a s).2 ⟨hlo, hhi⟩, if_true, load_respondByte hbuf]

/-- Settles O17: inside the bounds `SETSLOT` is one store to its slot, whose byte is read back and whose neighbours
stay; outside them it is a reject. -/
theorem setslotRule : Obligations.SetslotRule := by
  intro a v
  refine ⟨decode_cmdWord _ _ _, fun s hwf hceil => ?_⟩
  split
  next hin =>
    obtain ⟨hlo, hhi⟩ := hin
    exact ⟨_, exec_setslot_inside hlo hhi hceil v, rfl, byteAt_withByte (b := .txFrame) hwf a.toNat v⟩
  next hout => exact exec_setslot_outside hout v

/-! ## The reads (R141, R142, R144, R145, R147 to R149) -/

/-- Settles O18: each read is its bound, then a load inside its buffer (`load_respondByte`). -/
theorem byteReads : Obligations.ByteReads := by
  intro a v s
  refine ⟨⟨decode_cmdWord _ _ _, fun hceil => ?getslot⟩, ⟨decode_cmdWord _ _ _, ?rxslot⟩, decode_cmdWord _ _ _, ?pktrd⟩
  case getslot =>
    split
    next hin =>
      obtain ⟨hlo, hhi⟩ := hin
      exact exec_getslot_inside hlo hhi hceil
    next hout => simp only [exec, execGetslot, slotInRange_iff, if_neg hout, reject_range]
  case rxslot =>
    simp only [exec, execRxslot, rxIndexInRange_iff]
    split
    next hin => exact load_respondByte (b := .rxFrame) (Nat.lt_succ_of_le hin) s
    next hout => exact reject_range s
  case pktrd =>
    simp only [exec, execPktrd, pktOffsetInRange_iff]
    by_cases hin : a.toNat < 256
    · rw [if_pos hin, if_neg (Nat.not_le.2 hin)]
      exact load_respondByte (b := .rxPkt) hin s
    · rw [if_neg hin, if_pos (Nat.not_lt.1 hin), reject_range]

/-- Settles O20: the three counts are narrower than `DATA` (`respond_setWidth`). -/
theorem countReads : Obligations.CountReads := by
  intro a v s
  exact ⟨⟨decode_cmdWord _ _ _, respond_setWidth s.slotCount (by decide) s⟩,
    ⟨decode_cmdWord _ _ _, respond_setWidth s.rxLen (by decide) s⟩,
    decode_cmdWord _ _ _, respond_setWidth s.rxPktLen (by decide) s⟩

/-- A byte of an address as a number (R109). -/
theorem toNat_uidByte (u : Uid) (k : Nat) : (uidByte u k).toNat = u.toNat / 2 ^ (40 - 8 * k) % 256 := by
  rw [uidByte, BitVec.extractLsb'_toNat, Nat.shiftRight_eq_div_pow]

/-- Settles O22: the byte taken is the one `toNat_uidByte` names. -/
theorem rddiscRule : Obligations.RddiscRule := by
  intro a v
  refine ⟨decode_cmdWord _ _ _, fun s => ?_⟩
  simp only [exec, execRddisc, uidIndexInRange_iff]
  by_cases hin : a.toNat ≤ 5
  · rw [if_pos hin, if_neg (Nat.not_lt.2 hin), respondByte, respond_setWidth _ (by decide),
      ← BitVec.ofNat_toNat, toNat_uidByte]
  · rw [if_neg hin, if_pos (Nat.not_le.1 hin), reject_range]

/-! ## The slot count (R143) -/

/-- Clamping from both sides is a maximum of a minimum, the floor being at most 512 (R143). -/
theorem clampCount_eq (n : Nat) : clampCount n = max Config.slotsMin (min 512 n) := by
  obtain ⟨_, hmin⟩ := slotsMin_bounds
  unfold clampCount clampCountFrom
  simp only [Config.slotsMax]
  split <;> split <;> omega

/-- Settles O19: the count taken (`clampCount_eq`) is at most 512, so it fits `DATA` (`okWord_ofNat`). -/
theorem setcountRule : Obligations.SetcountRule := by
  intro a v
  refine ⟨decode_cmdWord _ _ _, fun s => ⟨clampCount a.toNat, clampCount_eq a.toNat, ?_⟩⟩
  have hle : clampCount a.toNat ≤ 512 := (clampCount_bounds a.toNat).2
  rw [← okWord_ofNat (by omega)]
  rfl

/-! ## The packet to send (R146) -/

/-- Settles O21: the tests in their order, then one store to `TXPKT`. -/
theorem pktwrRule : Obligations.PktwrRule := by
  intro a v
  refine ⟨decode_cmdWord _ _ _, fun s hwf => ?_⟩
  simp only [exec, execPktwr, pktOffsetInRange_iff]
  split
  next => exact reject_busy s
  next =>
    split
    next hout => rw [if_neg (Nat.not_lt.2 hout), reject_range]
    next hin =>
      have hbuf : a.toNat < 256 := Nat.not_le.1 hin
      rw [if_pos hbuf]
      exact ⟨_, store_respond (b := .txPkt) hbuf v s, rfl, byteAt_withByte (b := .txPkt) hwf a.toNat v⟩

end Sys2Proof.Machine
end

section
/-! A slot written is read back whatever comes between (R150 a): the byte has one writer, `SETSLOT` to it, and the slot
stays in range but for a `SETCOUNT` below it. -/

namespace Sys2Proof.Machine

/-! ## Runs of any inputs -/

/-- An input that goes on ran what it decodes to, or was a command word of an unlisted opcode (R171, R104). -/
theorem runInput_eq_next {y : Input} {s t : State} (h : runInput y s = .next t) :
    (∃ i, decode y = .ok i ∧ exec i s = .next t) ∨ t = afterReject .badOpcode s := by
  unfold runInput at h
  split at h
  next i hi => exact .inl ⟨i, hi, h⟩
  next r _ =>
    cases r with
    | badOpcode op => exact .inr (Host.Outcome.next.inj h).symm
    | badEventKind kind => cases h

/-- Induction along a run: what every input of the list keeps, the run keeps (R315). -/
theorem runInputs_keeps {P : State → Prop} {inputs : List Input} {s t : State}
    (hstep : ∀ y ∈ inputs, ∀ u v, P u → runInput y u = .next v → P v) (hs : P s)
    (h : runInputs inputs s = .next t) : P t := by
  induction inputs generalizing s with
  | nil =>
    cases h
    exact hs
  | cons y rest ih =>
    obtain ⟨u, hu, ht⟩ := andThen_eq_next h
    exact ih (fun z hz => hstep z (List.mem_cons_of_mem y hz)) (hstep y List.mem_cons_self s u hs hu) ht

/-! ## Who writes a slot and the slot count -/

/-- Only a `SETSLOT` stores to a slot of `TXFRAME`, the one it names (R71). -/
theorem eq_setslot_of_storeTarget {i : Instr} {s : State} {slot : Half}
    (h : storeTarget i s = some (.txFrame, slot.toNat)) : ∃ z, i = .setslot slot z := by
  cases i with
  | setslot a z =>
    have ha : a.toNat = slot.toNat := by simpa [storeTarget] using h
    exact ⟨z, by rw [BitVec.eq_of_toNat_eq ha]⟩
  | rxByte b => simpa using storeTarget_event rfl h
  | _ => cases h

/-- Only `SETCOUNT` writes `SLOTCOUNT` (R26, R143). -/
theorem Effect.slotCount_eq_or {i : Instr} {s t : State} (e : Effect s i t) :
    t.slotCount = s.slotCount ∨ ∃ n : Half, i = .setcount n ∧ t.slotCount.toNat = clampCount n.toNat := by
  cases e with
  | setcount n =>
    have hle : clampCount n.toNat ≤ 512 := (clampCount_bounds n.toNat).2
    exact .inr ⟨n, rfl, by rw [BitVec.toNat_ofNat]; omega⟩
  | resolvedResume _ _ _ _ _ _ _ _ _ _ _ _ _ _ _ _ hu => exact .inl (by rw [hu]; rfl)
  | resolvedQuiet _ _ _ _ _ _ _ _ _ _ _ _ _ _ _ _ hu => exact .inl (by rw [hu]; rfl)
  | _ => exact .inl rfl

/-! ## The round trip -/

/-- `GETSLOT slot` in `u`, a state of the invariant, is in range and reads `x` (R141). -/
structure SlotReads (slot : Half) (x : Byte) (u : State) : Prop where
  inv : Inv u
  positive : 1 ≤ slot.toNat
  inRange : slot.toNat ≤ u.slotCount.toNat
  byte : u.byteAt .txFrame slot.toNat = x

/-- An accepted `SETSLOT` found its slot in range and stored the value (R140). -/
theorem slotReads_of_setslot {slot : Half} {x : Byte} {s t : State} (hI : Inv s)
    (h : exec (.setslot slot x) s = .next t) (hacc : t.accepted = true) : SlotReads slot x t := by
  have hI' := exec_keeps_inv hI h
  by_cases hin : 1 ≤ slot.toNat ∧ slot.toNat ≤ s.slotCount.toNat
  · obtain ⟨hlo, hhi⟩ := hin
    cases (exec_setslot_inside hlo hhi hI.slotCeiling x).symm.trans h
    exact ⟨hI', hlo, hhi, State.byteAt_withByte_same (hI.memory .txFrame).1 _ x⟩
  · cases (exec_setslot_outside hin x).symm.trans h
    simp [State.accepted, respRej] at hacc

/-- An instruction that is no `SETSLOT` to the slot and no `SETCOUNT` below it keeps what the slot reads. -/
theorem SlotReads.exec {slot : Half} {x : Byte} {u v : State} {i : Instr} (hu : SlotReads slot x u)
    (hslot : ∀ z, i ≠ .setslot slot z) (hcount : ∀ n : Half, i = .setcount n → slot.toNat ≤ n.toNat)
    (h : exec i u = .next v) : SlotReads slot x v := by
  have hkeep : v.byteAt .txFrame slot.toNat = u.byteAt .txFrame slot.toNat :=
    (exec_storesAt i u).byteAt_eq h fun htarget => by
      obtain ⟨z, hz⟩ := eq_setslot_of_storeTarget htarget
      exact absurd hz (hslot z)
  refine ⟨exec_keeps_inv hu.inv h, hu.positive, ?_, hkeep.trans hu.byte⟩
  rcases (exec_effect hu.inv h).slotCount_eq_or with hsame | ⟨n, hn, hclamp⟩
  · rw [hsame]
    exact hu.inRange
  · have hmax : slot.toNat ≤ 512 := hu.inRange.trans hu.inv.slotCeiling
    have hle := hcount n hn
    rw [hclamp, clampCount_eq]
    omega

theorem SlotReads.runInput {slot : Half} {x : Byte} {u v : State} {y : Input} (hu : SlotReads slot x u)
    (hslot : ∀ z, decode y ≠ .ok (.setslot slot z))
    (hcount : ∀ n : Half, decode y = .ok (.setcount n) → slot.toNat ≤ n.toNat)
    (h : runInput y u = .next v) : SlotReads slot x v := by
  have hI := runInput_keeps_inv hu.inv h
  rcases runInput_eq_next h with ⟨i, hi, hv⟩ | rfl
  · exact hu.exec (fun z hz => hslot z (hz ▸ hi)) (fun n hn => hcount n (hn ▸ hi)) hv
  · exact ⟨hI, hu.positive, hu.inRange, hu.byte⟩

/-- Settles O16, by induction along the run (`runInputs_keeps`) from `slotReads_of_setslot`, with `SlotReads.runInput`
as its step. -/
theorem slotRoundTrip : Obligations.SlotRoundTrip := by
  intro slot x s t u inputs hI hset hacc hrun hslot hcount
  have hread : SlotReads slot x u := runInputs_keeps
    (fun y hy _ _ hv => hv.runInput (hslot y hy) (hcount y hy)) (slotReads_of_setslot hI hset hacc) hrun
  rw [exec_getslot_inside hread.positive hread.inRange hread.inv.slotCeiling, hread.byte]

end Sys2Proof.Machine
end

section
/-! The control, transaction-start and status commands (R160 to R168): the tests in their order, then one update of the
whole state. -/

namespace Sys2Proof.Machine

/-! ## Answers -/

/-- A command that returns nothing answers 0 and leaves the state it made (R101). -/
theorem respond_zero (s : State) : respond 0 s = .next { s with resp := some 0#32 } := by
  rw [respond_eq, okWord_zero]

/-- A reject sets `CMD_ERR` and answers its word, and nothing else changes (R170). -/
theorem reject_of_word {c : Cause} {w : RespWord} (hw : rejWord c = w) (s : State) :
    reject c s = .next { s with cmdErr := true, resp := some w } := by
  rw [reject_eq, hw]

/-! ## Flag operands (R110, R164, R166, R168) -/

/-- A flag bit the decoder's mask keeps is the bit of the command word (R104, log 11). -/
theorem flagBit_and_of_mask {m : Byte} {k : Nat} (hm : m.getLsbD k = true) (v : Byte) :
    flagBit (v &&& m) k = v.getLsbD k := by
  rw [flagBit, BitVec.getLsbD_and, hm, Bool.and_true]

/-- Settles O27: the mask keeps bit 0 (`flagBit_and_of_mask`), and each hook is a case of its own. -/
theorem sethookRule : Obligations.SethookRule := by
  intro a v s
  have hbit : flagBit (v &&& sethookBits) 0 = v.getLsbD 0 := flagBit_and_of_mask (by decide) v
  refine ⟨v &&& sethookBits, decode_cmdWord _ _ _, hbit, ?_⟩
  rw [exec, execSethook, hbit]
  exact ite_congr rfl (fun _ => respond_zero _) fun _ =>
    ite_congr rfl (fun _ => respond_zero _) fun _ => reject_of_word (by decide) s

/-- A flag kept unless its mask bit is set. -/
theorem and_not_eq_ite (flag sel : Bool) : (flag && !sel) = if sel then false else flag := by
  cases sel <;> simp

/-- Settles O31: the mask keeps the three bits (`flagBit_and_of_mask`), each of which clears one flag. -/
theorem clrflagRule : Obligations.ClrflagRule := by
  intro a v s
  refine ⟨v &&& clrflagBits, decode_cmdWord _ _ _, ?_⟩
  have h0 : flagBit (v &&& clrflagBits) 0 = v.getLsbD 0 := flagBit_and_of_mask (by decide) v
  have h1 : flagBit (v &&& clrflagBits) 1 = v.getLsbD 1 := flagBit_and_of_mask (by decide) v
  have h2 : flagBit (v &&& clrflagBits) 2 = v.getLsbD 2 := flagBit_and_of_mask (by decide) v
  simp only [exec, execClrflag, h0, h1, h2, and_not_eq_ite, respond_zero]

/-! ## Stopping, the pin and the counter (R162, R163, R165) -/

/-- Settles O25: one test, then the registers the rule clears. -/
theorem stopRule : Obligations.StopRule := by
  intro a v
  refine ⟨decode_cmdWord _ _ _, fun s => ?_⟩
  simp only [exec, execStop, reject_busy, respond_zero]

/-- Settles O26, by whether the operand names a pin. -/
theorem setdirpinRule : Obligations.SetdirpinRule := by
  intro a v
  refine ⟨decode_cmdWord _ _ _, fun s => ?_⟩
  rw [exec, execSetdirpin]
  by_cases hpin : a = 0xFFFF#16
  · rw [if_pos (show a = Config.dirPinNone from hpin), if_pos hpin, respond_zero, List.append_nil]
  · rw [if_neg (show a ≠ Config.dirPinNone from hpin), if_neg hpin, respond_zero, emit]

/-- Settles O28: addition of bytes is addition mod 256, and the old value fits `DATA` (`respond_setWidth`). -/
theorem nexttnRule : Obligations.NexttnRule := by
  intro a v
  refine ⟨decode_cmdWord _ _ _, fun s => ?_⟩
  have hinc : s.tn + 1#8 = BitVec.ofNat 8 ((s.tn.toNat + 1) % 256) := by
    apply BitVec.eq_of_toNat_eq
    simp
  rw [← hinc]
  exact respond_setWidth s.tn (by decide) { s with tn := s.tn + 1#8 }

/-! ## Starting (R160, R161) -/

/-- The tests of `STARTOUT` and `STARTIN`, the two that answer `BUSY` taken together (R160, R161). -/
theorem whenStartable_eq (s : State) (k : Res) :
    whenStartable s k =
      if s.txnActive = true ∨ ¬(s.run = false ∨ s.quiescent = true) then
        .next { s with cmdErr := true, resp := some 0x98000000#32 }
      else if s.txq ≠ [] then .next { s with cmdErr := true, resp := some 0xB8000000#32 }
      else k := by
  have hrun : (s.run && !s.quiescent) = true ↔ ¬(s.run = false ∨ s.quiescent = true) := by simp
  simp only [whenStartable, reject_busy, reject_of_word (show rejWord .txNotDrained = 0xB8000000#32 by decide), hrun,
    txBusy_iff, ite_or]

/-- The trace after `SetDir` is the old one and the symbols of the change (R169). -/
theorem setDir_trace_dirSyms (l : Bool) (s : State) : (setDir l s).trace = s.trace ++ dirSyms l s := by
  rw [setDir_eq_dirSyms]

/-- Settles O23: behind the tests (`whenStartable_eq`) `TXQ` is empty, so that the frame boundary hands over the first
break (`frameBoundary_contSend`). -/
theorem startoutRule : Obligations.StartoutRule := by
  intro a v
  refine ⟨decode_cmdWord _ _ _, fun s => ?_⟩
  rw [exec, execStartout, whenStartable_eq]
  refine ite_congr rfl (fun _ => rfl) fun _ => ite_congr rfl (fun _ => rfl) fun hq => ?_
  have hempty : s.txq = [] := not_not.1 hq
  rw [frameBoundary_contSend rfl (by simp [hempty]), andThen_next, respond_zero, setDir_trace_dirSyms, hempty]
  rfl

/-- Settles O24: behind the tests (`whenStartable_eq`) the line is released (`setDir_eq_dirSyms`). -/
theorem startinRule : Obligations.StartinRule := by
  intro a v
  refine ⟨decode_cmdWord _ _ _, fun s => ?_⟩
  rw [exec, execStartin, whenStartable_eq, setDir_eq_dirSyms, respond_zero]
  rfl

/-! ## Starting a transaction (R166) -/

/-- The boundary step `SENDTXN` takes itself: the break of the packet, with `TXQ` empty (R166, R180). -/
theorem sendtxn_boundary {s : State} (hempty : s.txq = []) (f : Byte) :
    andThen (frameBoundary (sendtxnAccepted f s)) (respond 0) = .next { sendtxnAccepted f s with
      ieTxRdy := false, frameSent := false, dir := true, trace := s.trace ++ dirSyms true s, baudSel := .brk,
      txq := [⟨0x00#8, .brk⟩], txc := false, txState := .txPktBreak, ieTxDone := true, resp := some 0#32 } := by
  have hq : (sendtxnAccepted f s).txq = [] := hempty
  rw [frameBoundary_active (sendtxnAccepted_txnActive f s) (by rw [hq]; decide), andThen_next, respond_zero,
    setDir_trace_dirSyms, hq]
  rfl

/-- Settles O29: the mask keeps bits 0 and 1 (`flagBit_and_of_mask`), which fix the accepted state; from quiescence the
boundary follows (`sendtxn_boundary`). -/
theorem sendtxnRule : Obligations.SendtxnRule := by
  intro a v s hquiet
  have h0 : flagBit (v &&& sendtxnBits) 0 = v.getLsbD 0 := flagBit_and_of_mask (by decide) v
  have h1 : flagBit (v &&& sendtxnBits) 1 = v.getLsbD 1 := flagBit_and_of_mask (by decide) v
  refine ⟨v &&& sendtxnBits, decode_cmdWord _ _ _, h0, h1, ?_⟩
  simp only [exec, execSendtxn, Bool.not_eq_true']
  refine ite_congr rfl (fun _ => reject_of_word (by decide) s) fun hrun => ?_
  refine ite_congr rfl (fun _ => reject_busy s) fun _ => ?_
  refine ite_congr rfl (fun _ => reject_of_word (by decide) s) fun _ => ?_
  refine ite_congr rfl (fun _ => reject_of_word (by decide) s) fun _ => ?_
  refine ite_congr rfl (fun hq => ?boundary) fun _ => ?deferred
  case boundary =>
    have hempty : s.txq = [] := hquiet (by simpa using hrun) hq
    rw [sendtxn_boundary hempty, sendtxnAccepted, h0, h1]
  case deferred => rw [respond_zero, sendtxnAccepted, h0, h1]

/-! ## The `STATUS` word (R47, R167) -/

/-- A bit of a field of `STATUS`: nothing below the field, the value's own bits from there up (R47). -/
theorem getLsbD_field {w : Nat} (x : BitVec w) (lo i : Nat) (hi : i < 27) :
    (field x lo).getLsbD i = (decide (lo ≤ i) && x.getLsbD (i - lo)) := by
  by_cases h : i < lo
  · simp [field, h, Nat.not_le.2 h]
  · simp [field, hi, h, Nat.not_lt.1 h]

/-- A field read at its own bits is its value (R47). -/
theorem extract_field_same {w : Nat} (x : BitVec w) (lo : Nat) (h : lo + w ≤ 27) :
    (field x lo).extractLsb' lo w = x := by
  apply BitVec.eq_of_getLsbD_eq
  intro i hi
  simp [getLsbD_field x lo (lo + i) (by omega), hi]

/-- Bits that no bit of a field lies in read 0 in it (R47). -/
theorem extract_field_other {w : Nat} (x : BitVec w) (lo lo' n : Nat) (hn : lo' + n ≤ 27)
    (h : lo + w ≤ lo' ∨ lo' + n ≤ lo) : (field x lo).extractLsb' lo' n = 0#n := by
  apply BitVec.eq_of_getLsbD_eq
  intro i hi
  rw [BitVec.getLsbD_extractLsb', getLsbD_field x lo (lo' + i) (by omega)]
  rcases h with habove | hbelow
  · simp [BitVec.getLsbD_of_ge x (lo' + i - lo) (by omega)]
  · simp [show ¬lo ≤ lo' + i by omega]

/-- The fields of `STATUS` that hold a code, and the bits that are 0 (R47): of the fields ored together one lies at the
bits read, and the others read 0 there. -/
theorem status_codes (s : State) :
    s.status.extractLsb' 0 2 = s.taskMode.code ∧ s.status.extractLsb' 3 3 = s.txState.code ∧
    s.status.extractLsb' 6 2 = s.rxState.code ∧ s.status.extractLsb' 17 3 = s.result.code ∧
    s.status.extractLsb' 20 3 = s.malfCause.code ∧ s.status.extractLsb' 25 2 = 0#2 := by
  simp (disch := omega) [State.status, BitVec.extractLsb'_or, extract_field_same, extract_field_other]

theorem Baud.getLsbD_code (b : Baud) : b.code.getLsbD 0 = decide (b = .brk) := by
  cases b <;> rfl

theorem RespKind.getLsbD_code (k : RespKind) : k.code.getLsbD 0 = decide (k = .discovery) := by
  cases k <;> rfl

theorem txBusy_eq_decide (s : State) : s.txBusy = decide (s.txq ≠ []) := by
  rw [Bool.eq_iff_iff, txBusy_iff, decide_eq_true_iff]

/-- The one-bit fields of `STATUS` (R47). -/
theorem status_bits (s : State) :
    s.status.getLsbD 2 = s.run ∧ s.status.getLsbD 8 = s.dir ∧ s.status.getLsbD 9 = decide (s.baudSel = .brk) ∧
    s.status.getLsbD 10 = decide (s.txq ≠ []) ∧ s.status.getLsbD 11 = s.frameSent ∧
    s.status.getLsbD 12 = s.frameRcvd ∧ s.status.getLsbD 13 = s.txnRcvd ∧ s.status.getLsbD 15 = s.hookFrameEn ∧
    s.status.getLsbD 16 = s.hookTxnEn ∧ s.status.getLsbD 23 = s.rxAny ∧
    s.status.getLsbD 24 = decide (s.respKind = .discovery) := by
  rw [← Baud.getLsbD_code, ← RespKind.getLsbD_code, ← txBusy_eq_decide]
  simp [State.status, field, bit]

/-- Settles O30: `DATA` is the `STATUS` word, each field of which is read back by itself. -/
theorem rdstatusRule : Obligations.RdstatusRule := by
  intro a v
  refine ⟨decode_cmdWord _ _ _, fun s => ⟨s.status, rfl, ?_⟩⟩
  obtain ⟨hmode, htx, hrx, hresult, hcause, hreserved⟩ := status_codes s
  obtain ⟨hrun, hdir, hbaud, hbusy, hsent, hrcvd, htxn, hframeHook, htxnHook, hany, hkind⟩ := status_bits s
  exact ⟨hmode, hrun, htx, hrx, hdir, hbaud, hbusy, hsent, hrcvd, htxn, status_bit14 s, hframeHook, htxnHook, hresult,
    hcause, hany, hkind, hreserved⟩

end Sys2Proof.Machine
end

section
/-! Where an instruction leaves `TXSTATE` and what it hands over (R189, R181): the tables of both, over the outcomes of
`exec_effect`. -/

namespace Sys2Proof.Machine

/-! ## What changes nothing in either table -/

/-- Neither table has a row for `i` run in `s` with `t` the state after it (R189, R181). -/
structure Unlisted (i : Instr) (s t : State) : Prop where
  txState : txTable i s t = s.txState
  silent : handedOver i s t = []

theorem unlisted_of_rejected {i : Instr} {t : State} (hi : isCommand i = true) (ht : t.accepted = false) (s : State) :
    Unlisted i s t := by
  cases i with
  | startout | startin | stop | sendtxn => constructor <;> simp [txTable, handedOver, ht]
  | txReady | txDone | rxByte | rxBreak | tick | shiftout => cases hi
  | _ => exact ⟨rfl, rfl⟩

theorem unlisted_of_isRead {i : Instr} (hi : isRead i = true) (s t : State) : Unlisted i s t := by
  cases i with
  | getslot | rxslot | getcount | rdrxlen | pktrd | rdpktlen | rddisc | rdstatus => exact ⟨rfl, rfl⟩
  | _ => cases hi

theorem unlisted_of_txReady_disabled {s : State} (h : s.txReadyEnabled = false) (t : State) :
    Unlisted .txReady s t := by
  constructor <;> simp [txTable, handedOver, h]

theorem unlisted_of_txDone_disabled {s : State} (h : s.txDoneEnabled = false) (t : State) :
    Unlisted .txDone s t := by
  constructor <;> simp [txTable, handedOver, h]

/-- The transaction that a response is waited for is still pending (R51 I7). -/
theorem Inv.result_of_waitResp {s : State} (hI : Inv s) (hw : s.txState = .txWaitResp) : s.result = .pending :=
  hI.pending.1 (hI.txnActive_of_waitResp hw)

/-- An event that keeps the outcome resolves nothing (R225). -/
theorem Inv.unlisted_of_result_eq {i : Instr} {s t : State} (hI : Inv s) (hi : mayResolve i = true)
    (h : t.result = s.result) : Unlisted i s t := by
  have hno : ¬(s.txState = .txWaitResp ∧ t.result ≠ .pending) :=
    fun ⟨hw, hne⟩ => hne (h.trans (hI.result_of_waitResp hw))
  cases i with
  | rxByte | tick => exact ⟨if_neg hno, if_neg fun ⟨hw, hne, _⟩ => hno ⟨hw, hne⟩⟩
  | _ => cases hi

/-! ## The rows of the events that resolve, and of the slots -/

theorem txTable_resolved {i : Instr} {s t : State} (hi : mayResolve i = true) (hw : s.txState = .txWaitResp)
    (ht : t.result ≠ .pending) :
    txTable i s t = if s.taskMode = .sendTxnResume then .txBreak else .txIdle := by
  cases i with
  | rxByte | tick => exact if_pos ⟨hw, ht⟩
  | _ => cases hi

theorem handedOver_resolved {i : Instr} {s t : State} (hi : mayResolve i = true) (hw : s.txState = .txWaitResp)
    (ht : t.result ≠ .pending) : handedOver i s t = if s.taskMode = .sendTxnResume then [.brk] else [] := by
  cases i with
  | rxByte | tick => simp [handedOver, hw, ht]
  | _ => cases hi

/-- `TX_READY` where a slot is due: `TXIDX` is 1 in `TX_START`, so that both rows ask whether a slot is left after this
one (R186, R187). -/
theorem Inv.txTable_slot {s : State} (hI : Inv s) (he : s.txReadyEnabled = true)
    (hs : s.txState = .txStart ∨ s.txState = .txData) (t : State) :
    txTable .txReady s t = if s.txIdx.toNat < s.slotCount.toNat then .txData else .txIdle := by
  rcases hs with hs | hs
  · have hidx : s.txIdx.toNat = 1 := by rw [hI.firstSlot hs]; rfl
    simp only [txTable, he, hs, hidx, if_true]
    rfl
  · simp only [txTable, he, hs, if_true]
    rfl

theorem handedOver_slot {s : State} (he : s.txReadyEnabled = true)
    (hs : s.txState = .txStart ∨ s.txState = .txData) (t : State) :
    handedOver .txReady s t =
      if s.txIdx.toNat ≤ s.slotCount.toNat then [.tx (s.byteAt .txFrame s.txIdx.toNat)] else [] := by
  rcases hs with hs | hs <;> simp only [handedOver, he, hs, if_true]

/-! ## Every transition of `TXSTATE` -/

/-- Every outcome leaves `TXSTATE` where the table of R189 says. -/
theorem Effect.txState_eq {i : Instr} {s t : State} (hI : Inv s) (e : Effect s i t) : t.txState = txTable i s t := by
  have hkept : Unlisted i s t → t.txState = s.txState → t.txState = txTable i s t :=
    fun hu h => h.trans hu.txState.symm
  cases e with
  | reject _ c hi => exact hkept (unlisted_of_rejected hi (afterReject_accepted c s) s) rfl
  | read _ _ hi => exact hkept (unlisted_of_isRead hi s _) rfl
  | startout | startin | stop => exact (if_pos (accepted_of_okWord rfl)).symm
  | sendtxnNow _ _ _ _ _ hq => simp [txTable, hq, State.accepted]
  | sendtxnLater _ _ _ _ _ hq => simp [txTable, hq]
  | txReadyOff hoff => exact hkept (unlisted_of_txReady_disabled hoff _) rfl
  | slotMore he hs hi => rw [hI.txTable_slot he hs, if_pos hi]
  | slotLast he hs hi => rw [hI.txTable_slot he hs, if_neg (by omega)]
  | slotNone he hs hi => rw [hI.txTable_slot he (.inr hs), if_neg (by omega)]
  | pktMore he hs hi | pktLast he hs hi => simp [txTable, he, hs, hi]
  | txDoneOff hoff => exact hkept (unlisted_of_txDone_disabled hoff _) rfl
  | frameEnd he hs hm => simp [txTable, he, hs, State.txnActive, hm]
  | packetStart he hs ha => simp [txTable, he, hs, ha]
  | startCode he hs | packetFirst he hs | turnaround he hs => simp [txTable, he, hs]
  | rxByteOff | rxByteIdle | rxByteStart | rxByteSlot | rxByteFull | waitRoom | waitFull | tickOff | tickIdle
  | waitTick => exact hkept (hI.unlisted_of_result_eq rfl rfl) rfl
  | resolvedResume _ _ _ _ _ _ _ _ _ _ _ _ hi hw hm hv => rw [txTable_resolved hi hw hv, if_pos hm]
  | resolvedQuiet _ _ _ _ _ _ _ _ _ _ _ _ hi hw hm hv => rw [txTable_resolved hi hw hv, if_neg hm]
  | _ => rfl

/-- Settles O50: every outcome is one of the list (`exec_effect`), and each is a row of the table
(`Effect.txState_eq`). -/
theorem txStateTransitions : Obligations.TxStateTransitions := fun _ _ _ hI h => (exec_effect hI h).txState_eq hI

/-! ## The wire -/

/-- Pairs that join `TXQ` join the wire behind everything handed over before, whatever else the trace says (R181). -/
theorem wire_append {s t : State} {l : List Sym} {q : List TxPair} (htr : t.trace = s.trace ++ l)
    (hl : ∀ y ∈ l, y.transmitted = false) (hq : t.txq = s.txq ++ q) : t.wire = s.wire ++ q.map TxPair.sym := by
  have hnone : l.filter Sym.transmitted = [] := by simpa [List.filter_eq_nil_iff] using hl
  simp [State.wire, htr, hq, hnone]

theorem wire_quiet {s t : State} {l : List Sym} (htr : t.trace = s.trace ++ l) (hl : ∀ y ∈ l, y.transmitted = false)
    (hq : t.txq = s.txq) : t.wire = s.wire := by
  simpa using wire_append (q := []) htr hl (by simpa using hq)

/-- A break handed over with `TXQ` empty (R180). -/
theorem wire_break {s t : State} {l : List Sym} (htr : t.trace = s.trace ++ l) (hl : ∀ y ∈ l, y.transmitted = false)
    (hx : s.txq = []) (hq : t.txq = [⟨0x00#8, .brk⟩]) : t.wire = s.wire ++ [.brk] :=
  wire_append (q := [⟨0x00#8, .brk⟩]) htr hl (by rw [hx, hq]; rfl)

/-- A byte handed over at data baud (R181). -/
theorem wire_byte {s t : State} {b : Byte} {baud : Baud} (hbaud : baud = .data) (htr : t.trace = s.trace)
    (hq : t.txq = s.txq ++ [⟨b, baud⟩]) : t.wire = s.wire ++ [.tx b] := by
  subst hbaud
  exact wire_append (l := []) (by simpa using htr) (by simp) hq

/-- What leaves `TXQ` first is what the trace shows next (R182). -/
theorem wire_shift {s t : State} {p : TxPair} {rest : List TxPair} (hx : s.txq = p :: rest)
    (htr : t.trace = s.trace ++ [p.sym]) (hq : t.txq = rest) : t.wire = s.wire := by
  have hp : p.sym.transmitted = true := by
    obtain ⟨b, baud⟩ := p
    cases baud <;> rfl
  simp [State.wire, htr, hq, hx, hp]

/-! ## What every outcome hands over -/

/-- Slots go at data baud (R35). -/
theorem Inv.baudSel_of_slot {s : State} (hI : Inv s) (hs : s.txState = .txStart ∨ s.txState = .txData) :
    s.baudSel = .data := by
  refine hI.dataBaud (.inl ?_)
  rcases hs with hs | hs <;> rw [hs] <;> rfl

/-- Every outcome makes the wire longer by what its instruction hands over (R181, R182): a byte at data baud, a break
with `TXQ` empty, or nothing. -/
theorem Effect.wire_eq {i : Instr} {s t : State} (hI : Inv s) (e : Effect s i t) :
    t.wire = s.wire ++ handedOver i s t := by
  have hsilent : handedOver i s t = [] → t.wire = s.wire → t.wire = s.wire ++ handedOver i s t := fun hno hw => by
    rw [hno, List.append_nil, hw]
  have hquiet : Unlisted i s t → t.wire = s.wire → t.wire = s.wire ++ handedOver i s t :=
    fun hu => hsilent hu.silent
  have hput : ∀ y, handedOver i s t = [y] → t.wire = s.wire ++ [y] → t.wire = s.wire ++ handedOver i s t :=
    fun y hy hw => by rw [hy, hw]
  cases e with
  | reject _ c hi => exact hquiet (unlisted_of_rejected hi (afterReject_accepted c s) s) rfl
  | read _ _ hi => exact hquiet (unlisted_of_isRead hi s _) rfl
  | startout _ _ hx =>
    exact hput .brk (if_pos (accepted_of_okWord rfl)) (wire_break rfl (dirSyms_quiet true s) hx rfl)
  | startin => exact hsilent rfl (wire_quiet rfl (dirSyms_quiet false s) rfl)
  | setdirpin _ l hl =>
    exact hsilent rfl (wire_quiet rfl (by rcases hl with rfl | rfl <;> simp [Sym.transmitted]) rfl)
  | sendtxnNow f _ _ _ _ hq hx =>
    exact hput .brk (by simp [handedOver, hq, State.accepted]) (wire_break rfl (dirSyms_quiet true s) hx rfl)
  | sendtxnLater f _ _ _ _ hq => exact hsilent (by simp [handedOver, hq]) rfl
  | txReadyOff hoff => exact hquiet (unlisted_of_txReady_disabled hoff _) rfl
  | slotMore he hs hi | slotLast he hs hi =>
    exact hput _ (by rw [handedOver_slot he hs, if_pos (by omega)]) (wire_byte (hI.baudSel_of_slot hs) rfl rfl)
  | slotNone he hs hi => exact hsilent (by rw [handedOver_slot he (.inr hs), if_neg (by omega)]) rfl
  | pktMore he hs | pktLast he hs =>
    exact hput _ (by simp [handedOver, he, hs]) (wire_byte (hI.dataBaud (.inl (by rw [hs]; rfl))) rfl rfl)
  | txDoneOff hoff => exact hquiet (unlisted_of_txDone_disabled hoff _) rfl
  | frameEnd he hs _ hx | packetStart he hs _ hx =>
    exact hput .brk (by simp [handedOver, he, hs]) (wire_break rfl (dirSyms_quiet true s) hx rfl)
  | startCode he hs hx =>
    exact hput (.tx (s.byteAt .txFrame 0)) (by simp [handedOver, he, hs]) (wire_byte rfl rfl (by rw [hx]; rfl))
  | packetFirst he hs hx =>
    exact hput (.tx (s.byteAt .txPkt 0)) (by simp [handedOver, he, hs]) (wire_byte rfl rfl (by rw [hx]; rfl))
  | turnaround he hs =>
    exact hsilent (by simp [handedOver, he, hs]) (wire_quiet rfl (dirSyms_quiet false s) rfl)
  | rxByteOff | tickOff | tickIdle | waitTick => exact hquiet (hI.unlisted_of_result_eq rfl rfl) rfl
  | rxByteIdle | rxByteStart | rxByteSlot | rxByteFull | waitRoom | waitFull =>
    exact hquiet (hI.unlisted_of_result_eq rfl rfl) (wire_quiet rfl (by simp [Sym.transmitted]) rfl)
  | rxBreakOutside | waitBreakAddressed | waitBreakDiscovery =>
    exact hsilent rfl (wire_quiet rfl (by simp [Sym.transmitted]) rfl)
  | rxBreakReport =>
    refine hsilent rfl (wire_quiet (List.append_assoc _ _ _) ?_ rfl)
    split <;> simp [Sym.transmitted]
  | resolvedResume _ u _ _ _ _ _ _ _ _ _ _ hi hw hm hv _ _ htr =>
    obtain ⟨l, hl, hno⟩ := htr
    obtain ⟨_, _, hx, _⟩ := hI.waiting hw
    exact hput .brk (by rw [handedOver_resolved hi hw hv, if_pos hm]) (wire_break hl hno hx rfl)
  | resolvedQuiet _ u _ _ _ _ _ _ _ _ _ _ hi hw hm hv hu _ htr =>
    obtain ⟨l, hl, hno⟩ := htr
    exact hsilent (by rw [handedOver_resolved hi hw hv, if_neg hm]) (wire_quiet hl hno (by rw [hu]; rfl))
  | shift p rest hx => exact hsilent rfl (wire_shift hx rfl rfl)
  | _ => exact hsilent rfl rfl

/-- Settles O53: every outcome is one of the list (`exec_effect`), and each hands over what its instruction does
(`Effect.wire_eq`). -/
theorem wireIsWhatWasHandedOver : Obligations.WireIsWhatWasHandedOver := fun _ _ _ hI h => (exec_effect hI h).wire_eq hI

end Sys2Proof.Machine
end

section
/-! The transmit arms of continuous send, the frame boundary, and the serial peripheral's step (R180, R182 to R188). -/

namespace Sys2Proof.Machine

/-! ## The frame boundary (R180, R184) -/

/-- Settles O32, by the task mode: the break of the next frame (`frameBoundary_contSend`), the break of the packet
(`frameBoundary_active`), or rest. -/
theorem frameBoundaryRule : Obligations.FrameBoundaryRule := by
  intro s hq
  have hroom : s.txq.length < Config.txqDepth := by simp [hq]
  by_cases hm : s.taskMode = .contSend
  · rw [if_pos hm, frameBoundary_contSend hm hroom, setDir_trace_dirSyms, hq, List.nil_append]
  rw [if_neg hm]
  by_cases ha : s.txnActive = true
  · rw [if_pos ha, frameBoundary_active ha hroom, setDir_trace_dirSyms, hq, List.nil_append]
  · have hrecv : s.taskMode = .contRecv := by
      rw [txnActive_iff, not_or] at ha
      cases h : s.taskMode <;> simp_all
    rw [if_neg ha, frameBoundary, hrecv]

/-- Settles O35: the boundary rule (`frameBoundaryRule`) in the state with `TXC` taken and `FRAME_SENT` risen; `TX_DONE`
was waited for, and is again unless the engine receives. -/
theorem txDoneAtFrameEnd : Obligations.TxDoneAtFrameEnd := by
  intro s hrun hdone hc hs hq
  rw [exec_txDone_enabled hrun hdone hc, txDoneArm_idle (s := { s with txc := false }) hs, txDoneIdle,
    frameBoundaryRule { s with txc := false, frameSent := true } hq]
  simp only [hdone, hs]
  rfl

/-! ## The first byte after a break (R185, R217) -/

/-- `TX_DONE` after the packet's break hands over its first byte (R217). -/
theorem exec_txDone_pktBreak {s : State} (hrun : s.run = true) (hdone : s.ieTxDone = true) (hc : s.txc = true)
    (hphase : s.txState = .txPktBreak) (hq : s.txq = []) :
    exec .txDone s = .next { s with
      baudSel := .data, txPktLen := BitVec.ofNat 9 ((s.byteAt .txPkt 2).toNat + 1),
      txq := [⟨s.byteAt .txPkt 0, .data⟩], txc := false, txIdx := 1#10, txState := .txPktData
      ieTxDone := false, ieTxRdy := true } := by
  rw [exec_txDone_enabled hrun hdone hc, txDoneArm_pktBreak (s := { s with txc := false }) hphase, txDonePktBreak,
    uartPut_room (by simp [hq]), andThen_next]
  simp [hq, State.byteAt, State.memory]

/-- Settles O36, one arm for each of the two breaks. -/
theorem txDoneAfterBreak : Obligations.TxDoneAfterBreak := fun _ hrun hdone hc hq =>
  ⟨fun hs => exec_txDone_break hrun hdone hc hs hq, fun hs => exec_txDone_pktBreak hrun hdone hc hs hq⟩

/-! ## The slots (R186, R187) -/

/-- Above the count nothing is handed over and the frame ends (R187). -/
theorem nextSlot_past {s : State} (h : s.slotCount.toNat < s.txIdx.toNat) :
    nextSlot s = .next { s with txState := .txIdle, ieTxRdy := false, ieTxDone := true } := by
  rw [nextSlot, if_neg (by omega), endOfSlots, if_pos h]

/-- Settles O37, by where `TXIDX` stands to `SLOTCOUNT`: a slot that is left is handed over (`nextSlot_left`), and the
frame ends when the index has passed the count. -/
theorem txReadySendsSlot : Obligations.TxReadySendsSlot := by
  intro s hrun hrdy hroom hphase hceil
  rw [exec_txReady_enabled hrun hrdy hroom, txReadyArm_slot hphase]
  have hnext : s.txIdx.toNat ≤ s.slotCount.toNat → (s.txIdx + 1#10).toNat = s.txIdx.toNat + 1 := fun hle =>
    toNat_add_one_of_lt (Nat.lt_succ_of_le hle) (by omega)
  rcases Nat.lt_trichotomy s.txIdx.toNat s.slotCount.toNat with hlt | heq | hgt
  · have hnext := hnext hlt.le
    rw [if_pos hlt, nextSlot_left (s := { s with txState := .txData }) hlt.le hceil hroom, endOfSlots,
      if_neg (by dsimp only; omega)]
    rfl
  · have hnext := hnext heq.le
    rw [if_neg (by omega), if_pos heq, nextSlot_left (s := { s with txState := .txData }) heq.le hceil hroom,
      endOfSlots, if_pos (by dsimp only; omega)]
    rfl
  · rw [if_neg (by omega), if_neg (by omega), nextSlot_past (s := { s with txState := .txData }) hgt]

/-! ## The serial peripheral's step (R182) -/

/-- Settles O33: the kind alone decodes, and `TXQ` not being empty is all that `SHIFTOUT` needs. -/
theorem shiftoutRule : Obligations.ShiftoutRule := by
  refine ⟨fun d => ?_, fun s b baud rest hq => ?_⟩
  · obtain ⟨_, _, _, _, _, hshift⟩ := eventDispatch.1 d
    exact hshift
  · have hon : s.shiftoutEnabled = true := by simp [State.shiftoutEnabled, hq]
    rw [exec, execShiftout, deliver_enabled hon, shiftoutArm, hq]
    have hsym : TxPair.sym ⟨b, baud⟩ = if baud = .brk then .brk else .tx b := by cases baud <;> rfl
    have hc : (s.txc || rest.isEmpty) = if rest = [] then true else s.txc := by cases rest <;> simp
    simp only [emit, hsym, hc]

/-! ## Events that change nothing (R183, R188) -/

theorem exec_rxBreak_disabled {s : State} (h : s.rxEnabled = false) : exec .rxBreak s = .next s := by
  simp only [exec, execRxBreak, deliver_disabled h]

theorem exec_rxByte_disabled {s : State} (b : Byte) (h : s.rxEnabled = false) : exec (.rxByte b) s = .next s := by
  simp only [exec, execRxByte, deliver_disabled h]

/-- Settles O34: none of the six is enabled outside the conditions of R183, and what is not enabled is not delivered
(`deliver_disabled`). -/
theorem disabledEventsChangeNothing : Obligations.DisabledEventsChangeNothing := by
  refine fun s => ⟨fun hoff => ?_, fun hoff => ?_, fun hoff => ?_, fun hoff => ?_, fun hq => ?_⟩
  · exact exec_txReady_disabled (by rwa [← Bool.not_eq_true, txReadyEnabled_iff])
  · exact exec_txDone_disabled (by rwa [← Bool.not_eq_true, txDoneEnabled_iff])
  · have hoff' : s.rxEnabled = false := by rwa [← Bool.not_eq_true, State.rxEnabled, Bool.and_eq_true]
    exact ⟨exec_rxBreak_disabled hoff', fun b => exec_rxByte_disabled b hoff'⟩
  · exact deliver_disabled hoff _ s
  · exact deliver_disabled (by simp [State.shiftoutEnabled, hq]) _ s

/-- Settles O38, over the states of the sequencer: those without an arm of their own. -/
theorem armsThatDoNothing : Obligations.ArmsThatDoNothing := by
  refine fun s => ⟨fun hrun hrdy hroom hstart hdata hpkt => ?_, fun hrun hdone hc hidle hbrk hpktBrk hlast => ?_⟩
  · rw [exec_txReady_enabled hrun hrdy hroom, txReadyArm]
    cases hs : s.txState with
    | txStart => exact absurd hs hstart
    | txData => exact absurd hs hdata
    | txPktData => exact absurd hs hpkt
    | txIdle | txBreak | txPktBreak | txPktLast | txWaitResp => rfl
  · rw [exec_txDone_enabled hrun hdone hc, txDoneArm]
    cases hs : s.txState with
    | txIdle => exact absurd hs hidle
    | txBreak => exact absurd hs hbrk
    | txPktBreak => exact absurd hs hpktBrk
    | txPktLast => exact absurd hs hlast
    | txStart | txData | txPktData | txWaitResp => rfl

end Sys2Proof.Machine
end

section
/-! Continuous receive (R200 to R206): what each byte and each break does. -/

namespace Sys2Proof.Machine

/-! ## One event of continuous receive -/

theorem RxState.eq_cases (r : RxState) : r = .rxIdle ∨ r = .rxStart ∨ r = .rxReceiving := by
  cases r <;> simp

theorem toNat_sub_one_of_ne {x : BitVec 10} (h : x ≠ 0#10) : (x - 1#10).toNat = x.toNat - 1 := by
  bv_omega

/-- The receive events are delivered and go to the frame arms (R183, R200). -/
structure FrameListening (s : State) : Prop where
  run : s.run = true
  ieRx : s.ieRx = true
  outside : s.txState ≠ .txWaitResp
  mode : s.taskMode = .contRecv

theorem FrameListening.exec_rxByte {s : State} (h : FrameListening s) (b : Byte) :
    exec (.rxByte b) s = rxByteFrame b (emit (.rx b) s) := by
  rw [exec_rxByte_enabled b h.run h.ieRx, rxDispatch_frame (s := emit (.rx b) s) h.outside h.mode]

/-- Before the first break a byte only goes to the trace (R204). -/
theorem FrameListening.exec_rxByte_idle {s : State} (h : FrameListening s) (hr : s.rxState = .rxIdle) (b : Byte) :
    exec (.rxByte b) s = .next { s with trace := s.trace ++ [.rx b] } := by
  rw [h.exec_rxByte, rxByteFrame_idle (s := emit (.rx b) s) b hr, emit]

/-- The first byte after a break is the start code (R205). -/
theorem FrameListening.exec_rxByte_start {s : State} (h : FrameListening s) (hr : s.rxState = .rxStart) (b : Byte) :
    exec (.rxByte b) s = .next { s with
      trace := s.trace ++ [.rx b], rxFrame := s.rxFrame.write 0 b, rxIdx := 1#10, rxState := .rxReceiving } := by
  rw [h.exec_rxByte, rxByteFrame_start (s := emit (.rx b) s) b hr, emit]

/-- A slot the buffer has room for (R206). -/
theorem FrameListening.exec_rxByte_slot {s : State} (h : FrameListening s) (hr : s.rxState = .rxReceiving)
    (hi : s.rxIdx.toNat ≤ 512) (b : Byte) :
    exec (.rxByte b) s = .next { s with
      trace := s.trace ++ [.rx b], rxFrame := s.rxFrame.write s.rxIdx.toNat b, rxIdx := s.rxIdx + 1#10 } := by
  rw [h.exec_rxByte, rxByteFrame_slot (s := emit (.rx b) s) b hr hi, emit]

/-- A slot beyond the buffer only goes to the trace (R206). -/
theorem FrameListening.exec_rxByte_full {s : State} (h : FrameListening s) (hr : s.rxState = .rxReceiving)
    (hi : ¬s.rxIdx.toNat ≤ 512) (b : Byte) :
    exec (.rxByte b) s = .next { s with trace := s.trace ++ [.rx b] } := by
  rw [h.exec_rxByte, rxByteFrame_full (s := emit (.rx b) s) b hr hi, emit]

/-- Settles O39: by the task mode, then by whether the break ends a frame (`rxBreakFrame_report`) or not
(`rxBreakFrame_outside`). -/
theorem rxBreakDelimitsFrames : Obligations.RxBreakDelimitsFrames := by
  intro s hrun hie hout hidx
  rw [exec_rxBreak_enabled hrun hie]
  by_cases hm : s.taskMode = .contRecv
  · rw [rxDispatch_frame (s := emit .rxBrk s) hout hm, if_pos hm]
    by_cases hr : s.rxState = .rxReceiving
    · have hlen := toNat_sub_one_of_ne (hidx hr)
      have hlen' : BitVec.ofNat 10 (s.rxIdx.toNat - 1) = s.rxIdx - 1#10 := by
        rw [← hlen, BitVec.ofNat_toNat, BitVec.setWidth_eq]
      rw [rxBreakFrame_report (s := emit .rxBrk s) hr (hidx hr), reportFrame_eq, if_pos hr, hlen']
      simp [emit, hlen]
    · rw [rxBreakFrame_outside (s := emit .rxBrk s) hr, if_neg hr, emit]
  · rw [rxDispatch_other (s := emit .rxBrk s) hout hm, if_neg hm, emit]

/-- Settles O40: the start code and a slot are one write to their index (`byteAt_withByte`); a byte before the break,
beyond the buffer or in another mode only goes to the trace. -/
theorem rxByteStoresSlots : Obligations.RxByteStoresSlots := by
  intro b s hrun hie hout hwf
  have hwrite : ∀ i, (s.withByte .rxFrame i b).byteAt .rxFrame i = b ∧
      ∀ k, k ≠ i → (s.withByte .rxFrame i b).byteAt .rxFrame k = s.byteAt .rxFrame k :=
    fun i => byteAt_withByte (b := .rxFrame) hwf i b
  by_cases hm : s.taskMode = .contRecv
  · have hl : FrameListening s := ⟨hrun, hie, hout, hm⟩
    rcases s.rxState.eq_cases with hr | hr | hr
    · rw [if_neg (by simp [hr]), if_neg (by simp [hr])]
      exact hl.exec_rxByte_idle hr b
    · rw [if_pos ⟨hm, hr⟩]
      exact ⟨_, hl.exec_rxByte_start hr b, rfl, hwrite 0⟩
    · rw [if_neg (by simp [hr])]
      by_cases hi : s.rxIdx.toNat ≤ 512
      · rw [if_pos ⟨hm, hr, hi⟩]
        exact ⟨_, hl.exec_rxByte_slot hr hi b, rfl, hwrite _⟩
      · rw [if_neg (by simp [hi])]
        exact hl.exec_rxByte_full hr hi b
  · rw [if_neg (by simp [hm]), if_neg (by simp [hm]), exec_rxByte_enabled b hrun hie,
      rxDispatch_other (s := emit (.rx b) s) hout hm, emit]

end Sys2Proof.Machine
end

section
/-! The frame between two breaks (R207): the bytes are stored from index 0 up to the end of the buffer, and the break
that ends the frame reports them. -/

namespace Sys2Proof.Machine

/-! ## Several bytes written in a row -/

/-- The memory with the bytes of a list written from index `i` up. -/
def Memory.writeList : Memory → Nat → List Byte → Memory
  | m, _, [] => m
  | m, i, b :: rest => Memory.writeList (m.write i b) (i + 1) rest

/-- An index below or above the bytes written reads as before. -/
theorem Memory.read_writeList_outside {l : List Byte} {m : Memory} {i k : Nat} (hk : k < i ∨ i + l.length ≤ k) :
    (m.writeList i l).read k = m.read k := by
  induction l generalizing m i with
  | nil => rfl
  | cons b rest ih =>
    rw [List.length_cons] at hk
    rw [Memory.writeList, ih (by omega), Memory.read_write_other (by omega)]

/-- Every byte written to a canonical memory is read back. -/
theorem Memory.read_writeList_inside {l : List Byte} {m : Memory} (hwf : m.wf = true) (i : Nat) {k : Nat}
    (hk : k < l.length) : (m.writeList i l).read (i + k) = l[k] := by
  induction l generalizing m i k with
  | nil => cases hk
  | cons b rest ih =>
    cases k with
    | zero =>
      rw [Memory.writeList, Nat.add_zero, Memory.read_writeList_outside (.inl (by omega))]
      exact Memory.read_write_same m i b 0 hwf
    | succ k =>
      have hrest := ih (Memory.wf_write hwf i b) (i + 1) (Nat.lt_of_succ_lt_succ hk)
      rwa [Nat.add_assoc, Nat.add_comm 1] at hrest

/-! ## The bytes of a frame -/

/-- The state once the bytes `l` of a frame, its start code first, have come (R205 to R207). -/
def frameHeld (l : List Byte) (s : State) : State :=
  { s with
    trace := s.trace ++ l.map .rx, rxFrame := s.rxFrame.writeList 0 (l.take 513)
    rxIdx := BitVec.ofNat 10 (min l.length 513), rxState := .rxReceiving }

theorem runInputs_rxBytes_cons (b : Byte) (rest : List Byte) (s : State) :
    runInputs (rxBytes (b :: rest)) s = andThen (exec (.rxByte b) s) (runInputs (rxBytes rest)) :=
  congrArg (andThen · (runInputs (rxBytes rest))) (runInput_encode (.rxByte b) s)

theorem runInputs_rxBreak (s : State) : runInputs [encode .rxBreak] s = exec .rxBreak s := by
  simp only [runInputs, runInput_encode, Instr.asRead]
  cases exec .rxBreak s <;> rfl

/-- The slots that come, by induction on them: each is stored while the buffer has room, and dropped after (R206). -/
theorem FrameListening.runInputs_slots {l : List Byte} {s : State} (h : FrameListening s)
    (hr : s.rxState = .rxReceiving) (hidx : s.rxIdx.toNat ≤ 513) :
    runInputs (rxBytes l) s = .next { s with
      trace := s.trace ++ l.map .rx
      rxFrame := s.rxFrame.writeList s.rxIdx.toNat (l.take (513 - s.rxIdx.toNat))
      rxIdx := BitVec.ofNat 10 (min (s.rxIdx.toNat + l.length) 513) } := by
  induction l generalizing s with
  | nil => simp [rxBytes, runInputs, Memory.writeList, Nat.min_eq_left hidx]
  | cons b rest ih =>
    rw [runInputs_rxBytes_cons]
    by_cases hi : s.rxIdx.toNat ≤ 512
    · have hnext : (s.rxIdx + 1#10).toNat = s.rxIdx.toNat + 1 :=
        toNat_add_one_of_lt (Nat.lt_succ_of_le hi) (by decide)
      have hroom : 513 - s.rxIdx.toNat = (513 - (s.rxIdx.toNat + 1)) + 1 := by omega
      rw [h.exec_rxByte_slot hr hi, andThen_next]
      refine (ih (by exact { h with }) (by exact hr) (by dsimp only; omega)).trans ?_
      simp [hnext, hroom, Memory.writeList, Nat.add_assoc, Nat.add_comm 1]
    · have hfull : s.rxIdx.toNat = 513 := by omega
      rw [h.exec_rxByte_full hr hi, andThen_next]
      refine (ih (by exact { h with }) (by exact hr) (by exact hidx)).trans ?_
      simp [hfull]

/-- The bytes of a frame: the start code, then the slots (R205, R206). -/
theorem FrameListening.runInputs_frame {b : Byte} {rest : List Byte} {s : State} (h : FrameListening s)
    (hr : s.rxState = .rxStart) : runInputs (rxBytes (b :: rest)) s = .next (frameHeld (b :: rest) s) := by
  rw [runInputs_rxBytes_cons, h.exec_rxByte_start hr, andThen_next]
  refine (FrameListening.runInputs_slots (by exact { h with }) rfl (by simp)).trans ?_
  simp [frameHeld, Memory.writeList, Nat.add_comm 1]

theorem frameHeld_rxIdx (l : List Byte) (s : State) : (frameHeld l s).rxIdx.toNat = min l.length 513 := by
  rw [frameHeld, BitVec.toNat_ofNat, Nat.mod_eq_of_lt (by omega)]

/-- A start code has been stored (R205, R203). -/
theorem frameHeld_started {l : List Byte} (hl : l ≠ []) (s : State) : (frameHeld l s).rxIdx ≠ 0#10 := by
  have hpos := List.length_pos_iff.2 hl
  have hidx := frameHeld_rxIdx l s
  intro h0
  rw [h0, BitVec.toNat_ofNat, Nat.zero_mod] at hidx
  omega

/-- The break that ends the frame reports the slots held, the start code not counted (R203). -/
theorem FrameListening.exec_rxBreak_frameHeld {l : List Byte} {s : State} (h : FrameListening s) (hl : l ≠ []) :
    exec .rxBreak (frameHeld l s) = .next { frameHeld l s with
      trace := (frameHeld l s).trace ++ .rxBrk ::
        (if s.hookFrameEn then [.notify .frame (min l.length 513 - 1)] else [])
      rxLen := BitVec.ofNat 10 (min l.length 513 - 1), frameRcvd := true, rxState := .rxStart, rxIdx := 0#10 } := by
  rw [rxBreakDelimitsFrames (frameHeld l s) h.run h.ieRx h.outside fun _ => frameHeld_started hl s,
    if_pos (show (frameHeld l s).taskMode = .contRecv from h.mode),
    if_pos (show (frameHeld l s).rxState = .rxReceiving from rfl), frameHeld_rxIdx]
  rfl

/-- The buffer holds the bytes of the frame it had room for (R206, R207). -/
theorem frameHeld_bytesAt {s : State} (hwf : s.rxFrame.wf = true) (l : List Byte) :
    (frameHeld l s).bytesAt .rxFrame 0 (min l.length 513) = l.take 513 := by
  refine List.ext_getElem (by simp [State.bytesAt, Nat.min_comm]) fun k _ hk => ?_
  simp only [State.bytesAt, List.getElem_map, List.getElem_range]
  exact Memory.read_writeList_inside hwf 0 hk

/-- The bytes above the frame stay (R207). -/
theorem frameHeld_byteAt_above {l : List Byte} {k : Nat} (hk : min l.length 513 ≤ k) (s : State) :
    (frameHeld l s).byteAt .rxFrame k = s.byteAt .rxFrame k :=
  Memory.read_writeList_outside (.inr (by rw [List.length_take]; omega))

/-- Settles O41: the bytes come (`FrameListening.runInputs_frame`), and the break that ends the frame reports them
(`rxBreakDelimitsFrames`); the buffer is what the bytes left in it. -/
theorem receivedFrame : Obligations.ReceivedFrame := by
  intro l s hI hrun hie hm hr hne
  obtain ⟨b, rest, rfl⟩ := List.exists_cons_of_ne_nil hne
  have h : FrameListening s := ⟨hrun, hie, hI.ne_waitResp_of_contRecv hm, hm⟩
  obtain ⟨hwf, _⟩ := hI.memory .rxFrame
  rw [runInputs_append, h.runInputs_frame hr, andThen_next, runInputs_rxBreak, h.exec_rxBreak_frameHeld hne]
  exact ⟨_, rfl, by simp [frameHeld, hr], frameHeld_bytesAt hwf (b :: rest),
    fun k hk => frameHeld_byteAt_above hk s⟩

end Sys2Proof.Machine
end

section
/-! The request of a transaction on its way out, and the turnaround (R217 to R219, R227): the arms that send the packet,
and its wire form for the schedule in which each byte leaves before the next is handed over. -/

namespace Sys2Proof.Machine

/-! ## The arms that send the packet -/

/-- Settles O42: a byte inside `TXPKT` is read and finds room in `TXQ`, and `TXIDX`, far below its width, goes up. -/
theorem txReadySendsPacketByte : Obligations.TxReadySendsPacketByte := by
  intro s hrun hrdy hroom hphase hidx hlen
  have hnext : (s.txIdx + 1#10).toNat = s.txIdx.toNat + 1 := toNat_add_one_of_lt (hidx.trans_le hlen) (by decide)
  have hin : s.txIdx.toNat < Buf.size .txPkt := hidx.trans_le hlen
  rw [exec_txReady_enabled hrun hrdy hroom, txReadyArm_pktData hphase, txReadyPktData, load_inside hin,
    uartPut_room hroom, andThen_next]
  simp only [hnext, apply_ite Host.Outcome.next]

/-- The wait of R219 is counted from the kind of response (R31). -/
theorem waitTicks_eq (k : RespKind) :
    waitTicks k = if k = .discovery then Config.discTimeout else Config.txnTimeout := by
  cases k <;> rfl

/-- Settles O43: the arm of the turnaround, the line released (`setDir_eq_dirSyms`). -/
theorem turnaround : Obligations.Turnaround := by
  intro s hrun hdone hc hphase
  rw [exec_txDone_enabled hrun hdone hc, txDoneArm_pktLast (s := { s with txc := false }) hphase, txDonePktLast,
    setDir_eq_dirSyms, ← waitTicks_eq]
  rfl

/-- The symbols of `SetDir` depend on the level and the pin only (R169). -/
theorem dirSyms_congr {s t : State} (l : Bool) (hdir : t.dir = s.dir) (hpin : t.dirPin = s.dirPin) :
    dirSyms l t = dirSyms l s := by
  simp only [dirSyms, hdir, hpin]

/-! ## The bytes of the packet -/

/-- The next packet byte can be handed over: `TX_READY` is enabled with nothing held, in `TX_PKT_DATA` at data baud, and
the index is inside the packet (R218, R51 I9). -/
structure PacketByteDue (s : State) : Prop where
  run : s.run = true
  ieTxRdy : s.ieTxRdy = true
  drained : s.txq = []
  baud : s.baudSel = .data
  phase : s.txState = .txPktData
  inside : s.txIdx.toNat < s.txPktLen.toNat
  length : s.txPktLen.toNat ≤ 256

/-- The state once the packet byte at `TXIDX` has left the wire, another one still to come (R182, R218). -/
def packetByteSent (s : State) : State :=
  { s with
    trace := s.trace ++ [.tx (s.byteAt .txPkt s.txIdx.toNat)], txIdx := s.txIdx + 1#10, txq := [], txc := true }

theorem PacketByteDue.packetByteSent_txIdx {s : State} (h : PacketByteDue s) :
    (packetByteSent s).txIdx.toNat = s.txIdx.toNat + 1 :=
  toNat_add_one_of_lt (h.inside.trans_le h.length) (by decide)

theorem PacketByteDue.next {s : State} (h : PacketByteDue s) (hmore : s.txIdx.toNat + 1 < s.txPktLen.toNat) :
    PacketByteDue (packetByteSent s) :=
  { h with drained := rfl, inside := h.packetByteSent_txIdx.trans_lt hmore }

/-- One packet byte is handed over and leaves the wire; after the last one the turnaround is waited for (R218, R182). -/
theorem PacketByteDue.runInputs_oneByte {s : State} (h : PacketByteDue s) :
    runInputs oneByte s = .next
      (if s.txPktLen.toNat ≤ s.txIdx.toNat + 1 then
        { packetByteSent s with txState := .txPktLast, ieTxRdy := false, ieTxDone := true }
      else packetByteSent s) := by
  have hready := txReadySendsPacketByte s h.run h.ieTxRdy (by simp [h.drained]) h.phase h.inside h.length
  simp only [h.drained, List.nil_append] at hready
  have hsym : TxPair.sym ⟨s.byteAt .txPkt s.txIdx.toNat, s.baudSel⟩ = .tx (s.byteAt .txPkt s.txIdx.toNat) := by
    rw [h.baud]
    rfl
  simp only [oneByte, runInputs, runInput_encode, Instr.asRead, hready, andThen_next]
  split <;> (rw [exec_shiftout_last rfl, andThen_next, hsym]; rfl)

/-- The remaining bytes, by induction on how many come after the one due; after the last the turnaround is waited for
(R218). -/
theorem PacketByteDue.runInputs_manyBytes {n : Nat} {s : State} (h : PacketByteDue s)
    (hleft : s.txIdx.toNat + (n + 1) = s.txPktLen.toNat) :
    runInputs (manyBytes (n + 1)) s = .next { s with
      trace := s.trace ++ (List.range (n + 1)).map fun k => .tx (s.byteAt .txPkt (s.txIdx.toNat + k))
      txState := .txPktLast, txIdx := s.txIdx + BitVec.ofNat 10 (n + 1), txq := [], txc := true
      ieTxRdy := false, ieTxDone := true } := by
  induction n generalizing s with
  | zero =>
    rw [manyBytes, runInputs_append, h.runInputs_oneByte, andThen_next, if_pos (by omega)]
    simp [manyBytes, runInputs, packetByteSent]
  | succ n ih =>
    have hnext := h.packetByteSent_txIdx
    have hleft' : (packetByteSent s).txIdx.toNat + (n + 1) = (packetByteSent s).txPktLen.toNat := by
      rw [hnext, Nat.add_right_comm]
      exact hleft
    have hidx : s.txIdx + 1#10 + BitVec.ofNat 10 (n + 1) = s.txIdx + BitVec.ofNat 10 (n + 1 + 1) := by
      rw [BitVec.add_assoc, ← BitVec.ofNat_add, Nat.add_comm 1]
    rw [manyBytes, runInputs_append, h.runInputs_oneByte, andThen_next, if_neg (by omega),
      ih (h.next (by omega)) hleft', hnext, List.range_succ_eq_map (n := n + 1)]
    simp [packetByteSent, hidx, State.byteAt, State.memory, Nat.add_assoc, Nat.add_comm 1]

/-! ## The break and the first byte -/

/-- The state once the break and the first packet byte have left the wire (R217). -/
def firstByteSent (s : State) : State :=
  { s with
    trace := s.trace ++ [.brk, .tx (s.byteAt .txPkt 0)], txState := .txPktData, txIdx := 1#10, txq := [], txc := true
    txPktLen := BitVec.ofNat 9 ((s.byteAt .txPkt 2).toNat + 1), baudSel := .data, ieTxRdy := true, ieTxDone := false }

theorem runInputs_firstByte {s : State} (hrun : s.run = true) (hphase : s.txState = .txPktBreak)
    (hdone : s.ieTxDone = true) (hq : s.txq = [⟨0x00#8, .brk⟩]) :
    runInputs [encode .shiftout, encode .txDone, encode .shiftout] s = .next (firstByteSent s) := by
  simp only [runInputs, runInput_encode, Instr.asRead]
  rw [exec_shiftout_last hq, andThen_next,
    exec_txDone_pktBreak (by exact hrun) (by exact hdone) rfl (by exact hphase) rfl, andThen_next,
    exec_shiftout_last rfl, andThen_next]
  simp [firstByteSent, TxPair.sym, State.byteAt, State.memory]

/-- A length byte and the checksum fit `TXPKTLEN` (R29, R217). -/
theorem firstByteSent_txPktLen (s : State) :
    (firstByteSent s).txPktLen.toNat = (s.byteAt .txPkt 2).toNat + 1 := by
  have hlen := (s.byteAt .txPkt 2).isLt
  exact (BitVec.toNat_ofNat _ _).trans (Nat.mod_eq_of_lt (by omega))

theorem packetByteDue_firstByteSent {s : State} (hrun : s.run = true) (hml : 24 ≤ (s.byteAt .txPkt 2).toNat) :
    PacketByteDue (firstByteSent s) where
  run := hrun
  ieTxRdy := rfl
  drained := rfl
  baud := rfl
  phase := rfl
  inside := by
    rw [firstByteSent_txPktLen]
    show 1 < _
    omega
  length := by
    have hlen := (s.byteAt .txPkt 2).isLt
    rw [firstByteSent_txPktLen]
    omega

/-- A packet is its first byte, then the rest (R227 a). -/
theorem packetSyms_succ (s : State) (n : Nat) :
    packetSyms s (n + 1) = .tx (s.byteAt .txPkt 0) :: (List.range n).map fun k => .tx (s.byteAt .txPkt (1 + k)) := by
  simp [packetSyms, List.range_succ_eq_map, Nat.add_comm 1]

/-- Settles O55: the break and the first byte (`runInputs_firstByte`), the other bytes up to the checksum
(`PacketByteDue.runInputs_manyBytes`), of which the length byte of an active transaction counts at least 24 (R51 I7), then
the turnaround (`turnaround`). -/
theorem packetOnTheWire : Obligations.PacketOnTheWire := by
  intro s hI hrun hphase hdone hq
  have hactive : s.txnActive = true := (hI.inPacket (by rw [hphase]; rfl)).1
  have hml : 24 ≤ (s.byteAt .txPkt 2).toNat := (hI.active hactive).2
  have hdue := packetByteDue_firstByteSent hrun hml
  have hlen := firstByteSent_txPktLen s
  obtain ⟨n, hn⟩ : ∃ n, (s.byteAt .txPkt 2).toNat = n + 1 := Nat.exists_eq_add_one.2 (by omega)
  have hleft : (firstByteSent s).txIdx.toNat + (n + 1) = (firstByteSent s).txPktLen.toNat := by
    rw [hlen, hn, Nat.add_comm]
    rfl
  rw [runInputs_append, runInputs_append, runInputs_firstByte hrun hphase hdone hq, andThen_next, hn,
    hdue.runInputs_manyBytes hleft, andThen_next]
  simp only [runInputs, runInput_encode, Instr.asRead]
  rw [turnaround _ (by exact hrun) rfl rfl rfl, andThen_next]
  refine ⟨_, rfl, ?_, rfl, rfl, rfl, hI.pending.1 hactive, fun b k => by cases b <;> rfl⟩
  refine congrArg₂ (· ++ ·) ?_ (dirSyms_congr false rfl rfl)
  simp [packetSyms_succ, firstByteSent, State.byteAt, State.memory]

end Sys2Proof.Machine
end

section
/-! The response of a transaction (R220 to R226): how it is stored, when it is judged, what the judgement is, and how the
transaction resolves. -/

namespace Sys2Proof.Machine

/-! ## Storing the response -/

/-- The state once a byte of the response has come, before it is seen whether the response is complete (R200, R220). -/
def responseByteStored (b : Byte) (s : State) : State := storeResponseByte b (emit (.rx b) s)

theorem exec_rxByte_wait {s : State} (b : Byte) (hrun : s.run = true) (hie : s.ieRx = true)
    (hw : s.txState = .txWaitResp) : exec (.rxByte b) s = finishIfComplete (responseByteStored b s) := by
  rw [exec_rxByte_enabled b hrun hie, rxDispatch_wait (s := emit (.rx b) s) hw, rxByteWait, responseByteStored]

/-- What a byte of the response writes: the trace, `RXANY`, `RXSTATE`, and with room `RXPKT` and `RXIDX` (R220). -/
theorem responseByteStored_eq (b : Byte) (s : State) :
    responseByteStored b s = { s with
      trace := s.trace ++ [.rx b], rxAny := true, rxState := .rxReceiving, rxPkt := (responseByteStored b s).rxPkt
      rxIdx := if s.rxIdx.toNat < 256 then s.rxIdx + 1#10 else s.rxIdx } := by
  unfold responseByteStored
  by_cases hroom : s.rxIdx.toNat < 256
  · rw [storeResponseByte_room (s := emit (.rx b) s) b hroom, if_pos hroom]
    rfl
  · rw [storeResponseByte_full (s := emit (.rx b) s) b hroom, if_neg hroom]
    rfl

/-- With room the byte is stored at `RXIDX` (R220). -/
theorem responseByteStored_rxPkt_room {s : State} (b : Byte) (hroom : s.rxIdx.toNat < 256) :
    (responseByteStored b s).rxPkt = s.rxPkt.write s.rxIdx.toNat b := by
  rw [responseByteStored, storeResponseByte_room (s := emit (.rx b) s) b hroom]
  rfl

/-- Without room it is dropped (R220). -/
theorem responseByteStored_rxPkt_full {s : State} (b : Byte) (hroom : ¬s.rxIdx.toNat < 256) :
    (responseByteStored b s).rxPkt = s.rxPkt := by
  rw [responseByteStored, storeResponseByte_full (s := emit (.rx b) s) b hroom]
  rfl

/-- The judgement comes with the byte that completes the response, by its length byte or by the longest discovery reply
(R220). -/
theorem finishIfComplete_eq (s : State) :
    finishIfComplete s =
      if s.respKind = .addressed then
        if 2 < s.rxIdx.toNat ∧ (s.byteAt .rxPkt 2).toNat + 1 ≤ s.rxIdx.toNat then resolve (validate s) s else .next s
      else if Config.discRespMax ≤ s.rxIdx.toNat then resolveDiscovery s
      else .next s := by
  unfold finishIfComplete
  cases hk : s.respKind with
  | addressed => simp only [responseComplete_iff, if_true]
  | discovery => rfl

/-- Settles O44: the byte is stored or dropped, by whether there is room, then the completion is looked for
(`finishIfComplete_eq`). -/
theorem rxByteOfResponse : Obligations.RxByteOfResponse := by
  intro b s hrun hie hw hwf
  have hkind : (responseByteStored b s).respKind = s.respKind := by rw [responseByteStored_eq]
  refine ⟨responseByteStored b s, responseByteStored_eq b s, fun hroom => ?_, fun k hk => ?_, ?_⟩
  · obtain ⟨hsame, _⟩ := byteAt_withByte (b := .rxPkt) hwf s.rxIdx.toNat b
    exact (congrArg (Memory.read · _) (responseByteStored_rxPkt_room b hroom)).trans hsame
  · by_cases hroom : s.rxIdx.toNat < 256
    · obtain ⟨_, hother⟩ := byteAt_withByte (b := .rxPkt) hwf s.rxIdx.toNat b
      exact (congrArg (Memory.read · _) (responseByteStored_rxPkt_room b hroom)).trans (hother k (by omega))
    · exact congrArg (Memory.read · _) (responseByteStored_rxPkt_full b hroom)
  · rw [exec_rxByte_wait b hrun hie hw, finishIfComplete_eq, hkind]

/-- Settles O45, by the kind of response. -/
theorem rxBreakOfResponse : Obligations.RxBreakOfResponse := by
  intro s hrun hie hw
  rw [exec_rxBreak_enabled hrun hie, rxDispatch_wait (s := emit .rxBrk s) hw]
  cases hk : s.respKind <;> simp [rxBreakWait, emit, hk]

/-! ## The timeout -/

/-- Settles O46, by the phase and by whether this is the last tick. -/
theorem tickRule : Obligations.TickRule := by
  intro s hrun
  rw [exec_tick_enabled hrun, tickArm]
  refine ⟨fun hw => if_neg hw, fun hw hcnt => ?_, fun hw hcnt u hu => ?_⟩
  · have hpos : s.toCnt ≠ 0#16 := by bv_omega
    have hmore : s.toCnt ≠ 1#16 := by bv_omega
    have hless : s.toCnt - 1#16 = BitVec.ofNat 16 (s.toCnt.toNat - 1) := by bv_omega
    rw [if_pos hw, tickWait, if_neg hpos, if_neg hmore, hless]
  · have hlast : s.toCnt = 1#16 := BitVec.eq_of_toNat_eq hcnt
    have hpos : s.toCnt ≠ 0#16 := by simp [hlast]
    rw [if_pos hw, tickWait, if_neg hpos, if_pos hlast, ← hu, timeout]
    have hany : u.rxAny = s.rxAny := by rw [hu]
    have hkind : u.respKind = s.respKind := by rw [hu]
    simp only [hany, hkind, Bool.not_eq_true']
    cases s.respKind <;> rfl

/-! ## The four checks -/

/-- A number of bytes is the digits of it, the last byte lowest (R72). -/
theorem bigEndian_eq_ofDigits (l : List Byte) : bigEndian l = Nat.ofDigits 256 (l.reverse.map BitVec.toNat) := by
  rw [bigEndian, Nat.ofDigits_eq_foldr, List.foldr_map, List.foldr_reverse]
  congr 1
  funext acc b
  simp [Nat.add_comm, Nat.mul_comm]

/-- Bytes of the same number are compared one by one (R72). -/
theorem bigEndian_inj {l m : List Byte} (hlen : l.length = m.length) : bigEndian l = bigEndian m ↔ l = m := by
  refine ⟨fun h => ?_, congrArg bigEndian⟩
  have hbound : ∀ k : List Byte, ∀ d ∈ k.reverse.map BitVec.toNat, d < 256 := by
    intro k d hd
    obtain ⟨b, _, rfl⟩ := List.mem_map.1 hd
    exact b.isLt
  rw [bigEndian_eq_ofDigits, bigEndian_eq_ofDigits] at h
  have hdigits := Nat.ofDigits_inj_of_len_eq (by decide) (by simp [hlen]) (hbound l) (hbound m) h
  exact List.reverse_injective (List.map_injective_iff.2 (fun _ _ => BitVec.eq_of_toNat_eq) hdigits)

/-- One byte read is its value (R72). -/
theorem memRead_one (s : State) (b : Buf) (i : Nat) : s.memRead b i 1 = (s.byteAt b i).toNat := by
  simp [State.memRead, State.bytesAt, bigEndian]

theorem memRead_eq_iff (s t : State) (b c : Buf) (i j n : Nat) :
    s.memRead b i n = t.memRead c j n ↔ s.bytesAt b i n = t.bytesAt c j n :=
  bigEndian_inj (by simp [State.bytesAt])

/-- Settles O47: each check says what its rule does (`lengthOk_iff` and its like), the checksum over one byte
(`memRead_one`), the addresses byte by byte (`memRead_eq_iff`). -/
theorem validateRule : Obligations.ValidateRule := by
  rintro s ml rfl
  unfold validate
  simp only [Bool.not_eq_true', ← Bool.not_eq_true, lengthOk_iff, checksumOk_iff, counterOk_iff, destOk_iff,
    memRead_one, memRead_eq_iff]
  refine ite_congr ?_ (fun _ => rfl) fun _ => rfl
  refine propext (not_congr (and_congr_right fun hmin => and_congr_right fun _ => ?_))
  omega

/-! ## The resolution -/

/-- The outcome recorded, as one update (R225). -/
theorem recordOutcome_eq (v : Verdict) (n : BitVec 9) (s : State) :
    recordOutcome v n s = { s with
      result := v.result, malfCause := v.cause, rxPktLen := n, ieRx := false, rxState := .rxIdle
      txnRcvd := if v.result = .valid then true else s.txnRcvd
      trace := s.trace
        ++ if v.result = .valid ∧ s.hookTxnEn = true then [.notify .txn s.rxIdx.toNat] else [] } := by
  unfold recordOutcome
  by_cases hv : v.result = .valid
  · by_cases hook : s.hookTxnEn = true
    · simp [hv, hook, emit]
    · simp [hv, hook]
  · simp [hv]

/-- Settles O48: the outcome is recorded (`recordOutcome_eq`) and the line taken back (`setDir_eq_dirSyms`), then by the
task mode the next frame's break (`resolve_resume`) or rest (`resolve_quiet`). -/
theorem resolveRule : Obligations.ResolveRule := by
  intro res cause s hq hidx
  have hfits : s.rxIdx.toNat < 512 := by omega
  refine ⟨_, rfl, ?_⟩
  by_cases hm : s.taskMode = .sendTxnResume
  · rw [resolve_resume _ hfits hm (by simp [hq]), if_pos hm, setDir_eq_dirSyms, recordOutcome_eq, hq]
    rfl
  · rw [resolve_quiet _ hfits hm, if_neg hm, setDir_eq_dirSyms, recordOutcome_eq]
    rfl

/-- Settles O49: the bytes lie in `RXPKT`, so that the reply is judged as the rule says; of the empty list `DiscDecode` is
`none` by its definition (R114). -/
theorem discResultRule : Obligations.DiscResultRule := by
  refine ⟨rfl, fun s hidx => ?_⟩
  simp only [resolveDiscovery, Bool.not_eq_true']
  rw [if_pos (show s.rxIdx.toNat ≤ Config.pktBufLen from hidx)]
  rfl

end Sys2Proof.Machine
end

section
/-! The wait for a response, and what an active transaction shuts out (R84, R227, R228): no command cancels it, nothing is
sent while the line is released, and each tick brings its end nearer. -/

namespace Sys2Proof.Machine

/-! ## No cancellation -/

theorem reject_of_txnActive {s : State} (ha : s.txnActive = true) (k : Res) :
    (if s.txnActive then reject .busy s else k) = .next { s with cmdErr := true, resp := some 0x98000000#32 } := by
  rw [if_pos ha, reject_busy]

/-- Only `PKTWR` has a byte of `TXPKT` as its target (R71, R84). -/
theorem storeTarget_txPkt {i : Instr} {s : State} {k : Nat} (h : storeTarget i s = some (.txPkt, k)) :
    ∃ a v, i = .pktwr a v := by
  cases i with
  | setslot => cases h
  | pktwr a v => exact ⟨a, v, rfl⟩
  | rxByte b => simpa using storeTarget_event rfl h
  | _ => cases h

/-- Settles O52: each of the five tests for an active transaction first, `SENDTXN` after a test of `RUN` that passes
(R51 I7); only `PKTWR` stores to `TXPKT` (`storeTarget_txPkt`), and it is among the five. -/
theorem noCancellation : Obligations.NoCancellation := by
  intro s hI ha
  have hbusy : ∀ i : Instr,
      (i = .stop ∨ i = .startout ∨ i = .startin ∨ (∃ f, i = .sendtxn f) ∨ ∃ a v, i = .pktwr a v) →
      exec i s = .next { s with cmdErr := true, resp := some 0x98000000#32 } := by
    rintro i (rfl | rfl | rfl | ⟨f, rfl⟩ | ⟨a, v, rfl⟩)
    · exact reject_of_txnActive ha _
    · exact reject_of_txnActive ha _
    · exact reject_of_txnActive ha _
    · obtain ⟨hrun, _⟩ := hI.active ha
      rw [exec, execSendtxn, if_neg (by simp [hrun])]
      exact reject_of_txnActive ha _
    · exact reject_of_txnActive ha _
  refine ⟨hbusy, fun i t ht k => ?_⟩
  obtain ⟨hkeep, _⟩ := storesOnlyAtTarget i s t ht
  by_cases htarget : storeTarget i s = some (.txPkt, k)
  · obtain ⟨a, v, rfl⟩ := storeTarget_txPkt htarget
    cases (hbusy _ (by simp)).symm.trans ht
    rfl
  · exact hkeep _ _ htarget

/-! ## Nothing is sent while the line is released -/

/-- What an instruction appends to the trace with nothing held for the wire: no symbol of the engine's (R182). -/
theorem Effect.trace_quiet {i : Instr} {s t : State} (hx : s.txq = []) (e : Effect s i t) :
    ∃ l : List Sym, t.trace = s.trace ++ l ∧ ∀ y ∈ l, y.transmitted = false := by
  cases e with
  | startout | sendtxnNow | frameEnd | packetStart => exact ⟨_, rfl, dirSyms_quiet true s⟩
  | startin | turnaround => exact ⟨_, rfl, dirSyms_quiet false s⟩
  | setdirpin _ l hl => exact ⟨l, rfl, by rcases hl with rfl | rfl <;> simp [Sym.transmitted]⟩
  | rxByteIdle | rxByteStart | rxByteSlot | rxByteFull | rxBreakOutside | waitRoom | waitFull | waitBreakAddressed
  | waitBreakDiscovery => exact ⟨_, rfl, by simp [Sym.transmitted]⟩
  | rxBreakReport =>
    refine ⟨_, List.append_assoc _ _ _, ?_⟩
    split <;> simp [Sym.transmitted]
  | resolvedResume _ u _ _ _ _ _ _ _ _ _ _ _ _ _ _ _ _ htr
  | resolvedQuiet _ u _ _ _ _ _ _ _ _ _ _ _ _ _ _ _ _ htr => exact htr
  | shift _ _ hp => exact absurd (hx.symm.trans hp) nofun
  | _ => exact ⟨[], (List.append_nil _).symm, nofun⟩

/-- Settles O56: with the line released nothing is held (R51 I4, I6), and what joins the trace then is not the engine's
(`Effect.trace_quiet`). -/
theorem silentWhileReleased : Obligations.SilentWhileReleased := by
  intro i s t hI hreleased h
  have hx : s.txq = [] := by
    rcases hreleased with hm | hw
    · obtain ⟨_, _, _, hx⟩ := hI.receiving hm
      exact hx
    · obtain ⟨_, _, hx, _⟩ := hI.waiting hw
      exact hx
  exact (exec_effect hI h).trace_quiet hx

/-! ## The timeout -/

/-- A transaction has ended: the task mode is handed back, an outcome is shown, and the line is driven (R225, R228). -/
structure Resolved (s : State) : Prop where
  inactive : s.txnActive = false
  mode : s.taskMode = .contSend
  settled : s.result ≠ .pending
  drives : s.dir = true

/-- An instruction in the wait resolves the transaction, or leaves it waiting, a tick with one tick less (R220 to R222,
R228). -/
theorem Effect.resolved_or_waits {i : Instr} {s t : State} (hI : Inv s) (hw : s.txState = .txWaitResp)
    (e : Effect s i t) :
    Resolved t ∨ t.txState = .txWaitResp ∧ t.toCnt.toNat + [i].count .tick = s.toCnt.toNat := by
  have hactive := hI.txnActive_of_waitResp hw
  have hbusy : s.txnActive ≠ false := by simp [hactive]
  have hphase : ∀ p, p ≠ .txWaitResp → s.txState ≠ p := fun p hp h => hp (h.symm.trans hw)
  cases e with
  | reject _ _ hi | read _ _ hi =>
    have hno : i ≠ .tick := by
      rintro rfl
      cases hi
    exact .inr ⟨hw, congrArg (s.toCnt.toNat + ·) (List.count_eq_zero.2 (by simpa using hno.symm))⟩
  | startout ha | startin ha | stop ha | sendtxnNow _ _ ha | sendtxnLater _ _ ha => exact absurd ha hbusy
  | slotMore _ hs | slotLast _ hs => simp [hw] at hs
  | slotNone _ hs | pktMore _ hs | pktLast _ hs | frameEnd _ hs | packetStart _ hs | startCode _ hs | packetFirst _ hs
  | turnaround _ hs => exact absurd hs (hphase _ nofun)
  | tickOff h =>
    obtain ⟨hrun, _⟩ := hI.active hactive
    simp [hrun] at h
  | tickIdle h => exact absurd hw h
  | waitTick _ hc =>
    refine .inr ⟨hw, ?_⟩
    show (s.toCnt - 1#16).toNat + 1 = s.toCnt.toNat
    bv_omega
  | resolvedResume _ u _ _ _ _ _ _ _ _ _ _ _ _ _ hv | resolvedQuiet _ u _ _ _ _ _ _ _ _ _ _ _ _ _ hv =>
    exact .inl ⟨rfl, rfl, hv, rfl⟩
  | _ => exact .inr ⟨hw, rfl⟩

theorem Instr.asRead_eq_tick_iff (i : Instr) : i.asRead = .tick ↔ i = .tick := by
  cases i <;> simp [Instr.asRead]

/-- Settles O57, by induction along the run: an instruction resolves the transaction or leaves it waiting, and the ticks
left in the run still cover `TOCNT` (`Effect.resolved_or_waits`); a wait has at least one tick to go (R51 I4). -/
theorem transactionResolvesWithinTimeout : Obligations.TransactionResolvesWithinTimeout := by
  intro is s hI hw hticks
  suffices ∃ n u, runInputs ((is.take n).map encode) s = .next u ∧ Resolved u by
    obtain ⟨n, u, hu, hres⟩ := this
    exact ⟨n, u, hu, hres.inactive, hres.mode, hres.settled, hres.drives⟩
  induction is generalizing s with
  | nil =>
    obtain ⟨_, _, _, hcnt, _⟩ := hI.waiting hw
    exact absurd (BitVec.eq_of_toNat_eq (Nat.le_zero.1 hticks)) hcnt
  | cons i rest ih =>
    obtain ⟨t, ht⟩ := everyInstructionCompletes i.asRead s hI
    have hrun : ∀ n, runInputs (((i :: rest).take (n + 1)).map encode) s = runInputs ((rest.take n).map encode) t := by
      intro n
      simp only [List.take_succ_cons, List.map_cons, runInputs, runInput_encode, ht, andThen_next]
    rcases (exec_effect hI ht).resolved_or_waits hI hw with hres | ⟨hw', hcnt⟩
    · exact ⟨1, t, hrun 0, hres⟩
    · have hcount : [i.asRead].count .tick = [i].count .tick := by
        simp [List.count_singleton, Instr.asRead_eq_tick_iff]
      rw [hcount] at hcnt
      rw [List.count_cons, ← List.count_singleton] at hticks
      obtain ⟨n, u, hu, hres⟩ := ih t (exec_keeps_inv hI ht) hw' (by omega)
      exact ⟨n + 1, u, (hrun n).trans hu, hres⟩

end Sys2Proof.Machine
end

section
/-! `BUILDPKT` (R252): the response of `NEXTTN` carries the counter value, the `PKTWR`s after it write fields that do not
overlap, and no event between two of them touches the counter or `TXPKT`. -/

namespace Sys2Proof.Machine

/-! ## Fields written in a row -/

/-- The fields cover no byte twice. -/
def FieldsDisjoint (fields : List (Nat × List Byte)) : Prop :=
  fields.Pairwise fun f g => f.1 + f.2.length ≤ g.1 ∨ g.1 + g.2.length ≤ f.1

/-- The memory with every field of a list written at its offset. -/
def Memory.writeFields : Memory → List (Nat × List Byte) → Memory
  | m, [] => m
  | m, f :: rest => (m.writeList f.1 f.2).writeFields rest

theorem Memory.wf_writeList {l : List Byte} {m : Memory} (hwf : m.wf = true) (i : Nat) : (m.writeList i l).wf = true := by
  induction l generalizing m i with
  | nil => exact hwf
  | cons b rest ih => exact ih (Memory.wf_write hwf i b) (i + 1)

theorem Memory.read_writeFields_outside {fields : List (Nat × List Byte)} {m : Memory} {k : Nat}
    (hk : ∀ f ∈ fields, k < f.1 ∨ f.1 + f.2.length ≤ k) : (m.writeFields fields).read k = m.read k := by
  induction fields generalizing m with
  | nil => rfl
  | cons f rest ih =>
    rw [Memory.writeFields, ih fun g hg => hk g (List.mem_cons_of_mem f hg),
      Memory.read_writeList_outside (hk f List.mem_cons_self)]

/-- A byte of a field is read back: the fields written after it lie elsewhere. -/
theorem Memory.read_writeFields_inside {fields : List (Nat × List Byte)} {m : Memory} (hwf : m.wf = true)
    (hdisj : FieldsDisjoint fields) {f : Nat × List Byte} (hf : f ∈ fields) {j : Nat} (hj : j < f.2.length) :
    (m.writeFields fields).read (f.1 + j) = f.2[j] := by
  induction fields generalizing m with
  | nil => cases hf
  | cons g rest ih =>
    obtain ⟨hapart, hrest⟩ := List.pairwise_cons.1 hdisj
    rcases List.mem_cons.1 hf with rfl | hmem
    · rw [Memory.writeFields, Memory.read_writeFields_outside fun e he => ?_, Memory.read_writeList_inside hwf f.1 hj]
      have := hapart e he
      omega
    · exact ih (Memory.wf_writeList hwf g.1) hrest hmem

/-- The byte a field list puts at an offset is that of the field which covers it (R252). -/
theorem fieldByte_inside {fields : List (Nat × List Byte)} (hdisj : FieldsDisjoint fields) {f : Nat × List Byte}
    (hf : f ∈ fields) {j : Nat} (hj : j < f.2.length) : fieldByte fields (f.1 + j) = f.2[j] := by
  induction fields with
  | nil => cases hf
  | cons g rest ih =>
    obtain ⟨hapart, hrest⟩ := List.pairwise_cons.1 hdisj
    rcases List.mem_cons.1 hf with rfl | hmem
    · rw [fieldByte, if_pos (by omega), Nat.add_sub_cancel_left, List.getD_eq_getElem _ _ hj]
    · have := hapart f hmem
      rw [fieldByte, if_neg (by omega), ih hrest hmem]

/-! ## `PKTWR`s in a row -/

/-- What an instruction leaves in `TXPKT` when it is an accepted `PKTWR` (R146). -/
def pktStored (m : Memory) : Instr → Memory
  | .pktwr a v => m.write a.toNat v
  | _ => m

/-- A `PKTWR` with its offset in range (R146). -/
def PktwrInRange (i : Instr) : Prop := ∃ a v, i = .pktwr a v ∧ a.toNat < 256

theorem toNat_offset {n : Nat} (h : n < 256) : (offset n).toNat = n := by
  rw [offset, BitVec.toNat_ofNat, Nat.mod_eq_of_lt (by omega)]

theorem pktwrBytes_length (off : Nat) (l : List Byte) : (pktwrBytes off l).length = l.length := by
  induction l generalizing off with
  | nil => rfl
  | cons b rest ih => rw [pktwrBytes, List.length_cons, List.length_cons, ih]

theorem pktwrBytes_inRange {l : List Byte} {off : Nat} (h : off + l.length ≤ 256) :
    ∀ i ∈ pktwrBytes off l, PktwrInRange i := by
  induction l generalizing off with
  | nil => nofun
  | cons b rest ih =>
    rw [List.length_cons] at h
    rw [pktwrBytes, List.forall_mem_cons]
    exact ⟨⟨_, b, rfl, by rw [toNat_offset (by omega)]; omega⟩, ih (by omega)⟩

theorem foldl_pktwrBytes {l : List Byte} {off : Nat} (h : off + l.length ≤ 256) (m : Memory) :
    (pktwrBytes off l).foldl pktStored m = m.writeList off l := by
  induction l generalizing off m with
  | nil => rfl
  | cons b rest ih =>
    rw [List.length_cons] at h
    rw [pktwrBytes, List.foldl_cons, ih (by omega), pktStored, toNat_offset (by omega), Memory.writeList]

theorem pktwrFields_inRange {fields : List (Nat × List Byte)} (h : ∀ f ∈ fields, f.1 + f.2.length ≤ 256) :
    ∀ i ∈ pktwrFields fields, PktwrInRange i := by
  intro i hi
  obtain ⟨f, hf, hmem⟩ := List.mem_flatMap.1 hi
  exact pktwrBytes_inRange (h f hf) i hmem

theorem foldl_pktwrFields {fields : List (Nat × List Byte)} (h : ∀ f ∈ fields, f.1 + f.2.length ≤ 256) (m : Memory) :
    (pktwrFields fields).foldl pktStored m = m.writeFields fields := by
  induction fields generalizing m with
  | nil => rfl
  | cons f rest ih =>
    obtain ⟨hf, hrest⟩ := List.forall_mem_cons.1 h
    rw [pktwrFields, List.flatMap_cons, List.foldl_append, foldl_pktwrBytes hf]
    exact ih hrest _

/-! ## Between two commands -/

/-- No transaction is active, the counter is `c`, and `TXPKT` holds `m`. -/
structure PacketHeld (c : Byte) (m : Memory) (s : State) : Prop where
  inv : Inv s
  inactive : s.txnActive = false
  counter : s.tn = c
  packet : s.txPkt = m

theorem txnActive_congr {s t : State} (h : t.taskMode = s.taskMode) : t.txnActive = s.txnActive := by
  rw [State.txnActive, h, ← State.txnActive]

/-- The counter and `TXPKT` are the foreground's (R81, R84): `NEXTTN` and `PKTWR` alone write them. -/
theorem Effect.event_keeps_packet {i : Instr} {s t : State} (hi : isCommand i = false) (e : Effect s i t) :
    t.tn = s.tn ∧ t.txPkt = s.txPkt := by
  cases e with
  | setslot | setcount | pktwr | startout | startin | stop | setdirpin | hookFrame | hookTxn | nexttn | sendtxnNow
  | sendtxnLater | clrflag => cases hi
  | reject _ _ hc => exact absurd hc (by simp [hi])
  | resolvedResume _ _ _ _ _ _ _ _ _ _ _ _ _ _ _ _ hu => exact hu ▸ ⟨rfl, rfl⟩
  | resolvedQuiet _ _ _ _ _ _ _ _ _ _ _ _ _ _ _ _ hu => exact hu ▸ ⟨rfl, rfl⟩
  | _ => exact ⟨rfl, rfl⟩

theorem PacketHeld.exec_event {c : Byte} {m : Memory} {s t : State} {i : Instr} (hs : PacketHeld c m s)
    (hi : isCommand i = false) (h : exec i s = .next t) : PacketHeld c m t := by
  have e := exec_effect hs.inv h
  obtain ⟨htn, hpkt⟩ := e.event_keeps_packet hi
  have hmode : t.taskMode = s.taskMode := by
    rcases e.taskMode_eq_or hs.inv with hsame | ⟨_, rfl | rfl | ⟨f, rfl⟩⟩ | ⟨hactive, _⟩
    · exact hsame
    · cases hi
    · cases hi
    · cases hi
    · exact absurd hactive (by simp [hs.inactive])
  exact ⟨exec_keeps_inv hs.inv h, (txnActive_congr hmode).trans hs.inactive, htn.trans hs.counter,
    hpkt.trans hs.packet⟩

/-- Instructions always go on in a state of the invariant, so a run of them does (R288). -/
theorem runInputs_encode_completes (is : List Instr) {s : State} (hI : Inv s) :
    ∃ t, runInputs (is.map encode) s = .next t := by
  induction is generalizing s with
  | nil => exact ⟨s, rfl⟩
  | cons i rest ih =>
    obtain ⟨u, hu⟩ := everyInstructionCompletes i.asRead s hI
    obtain ⟨t, ht⟩ := ih (exec_keeps_inv hI hu)
    exact ⟨t, by rw [List.map_cons, runInputs, runInput_encode, hu, andThen_next, ht]⟩

theorem Instr.asRead_of_event {i : Instr} (hi : isCommand i = false) : i.asRead = i := by
  cases i with
  | sethook | sendtxn | clrflag => cases hi
  | _ => rfl

theorem PacketHeld.run_events {c : Byte} {m : Memory} {s : State} {is : List Instr} (hs : PacketHeld c m s)
    (hi : ∀ i ∈ is, isCommand i = false) :
    ∃ t, runInputs (is.map encode) s = .next t ∧ PacketHeld c m t ∧ (is = [] → t = s) := by
  obtain ⟨t, ht⟩ := runInputs_encode_completes is hs.inv
  refine ⟨t, ht, runInputs_encode_keeps (fun i hmem u v hu hv => ?_) hs ht, ?_⟩
  · rw [Instr.asRead_of_event (hi i hmem)] at hv
    exact hu.exec_event (hi i hmem) hv
  · rintro rfl
    exact (Host.Outcome.next.inj ht).symm

/-! ## The commands -/

/-- An accepted command hands its data on (R250). -/
theorem command_bind_answered {α : Type} (i : Instr) (g : Data → HostProg α) (d : Data) :
    ((command i).bind g).answered (okWord d) = g d := by
  simp [command, HostProg.answered]

theorem commands_bind_cons {α : Type} (i : Instr) (rest : List Instr) (f : Unit → HostProg α) :
    (commands (i :: rest)).bind f = (command i).bind fun _ => (commands rest).bind f := by
  simp only [commands, command, bind_issue]
  congr 1
  funext w
  split <;> rfl

theorem PacketHeld.exec_nexttn {c : Byte} {m : Memory} {s : State} (hs : PacketHeld c m s) :
    ∃ t, exec .nexttn s = .next t ∧ PacketHeld (c + 1#8) m t ∧ t.resp = some (okWord (c.setWidth 27)) ∧
      t = { s with tn := s.tn + 1#8, resp := t.resp } := by
  have hexec : exec .nexttn s = .next { s with tn := s.tn + 1#8, resp := some (okWord (s.tn.setWidth 27)) } := rfl
  obtain rfl := hs.counter
  exact ⟨_, hexec, ⟨exec_keeps_inv hs.inv hexec, hs.inactive, rfl, hs.packet⟩, rfl, rfl⟩

theorem PacketHeld.exec_pktwr {c : Byte} {m : Memory} {s : State} {i : Instr} (hs : PacketHeld c m s)
    (hi : PktwrInRange i) :
    ∃ t, exec i s = .next t ∧ PacketHeld c (pktStored m i) t ∧ t.resp = some (okWord 0) ∧
      t = { s with txPkt := t.txPkt, resp := t.resp } := by
  obtain ⟨a, v, rfl, ha⟩ := hi
  have hexec : exec (.pktwr a v) s = .next { s.withByte .txPkt a.toNat v with resp := some (okWord 0) } := by
    rw [exec, execPktwr, if_neg (by simp [hs.inactive]), if_pos ((pktOffsetInRange_iff a).2 ha),
      store_respond (b := .txPkt) ha, okWord_zero]
  refine ⟨_, hexec, ⟨exec_keeps_inv hs.inv hexec, hs.inactive, hs.counter, ?_⟩, rfl, rfl⟩
  rw [pktStored, ← hs.packet]
  rfl

/-! ## Played with events between -/

/-- Induction on the `PKTWR`s of a program: each stores its byte, and the events before it store none. -/
theorem PacketHeld.play_pktwrs {α : Type} {is : List Instr} {env : List (List Instr)} {c : Byte} {m : Memory}
    {s : State} (hs : PacketHeld c m s) (his : ∀ i ∈ is, PktwrInRange i) (hlen : env.length = is.length)
    (henv : ∀ l ∈ env, ∀ i ∈ l, isCommand i = false) (f : Unit → HostProg α) :
    ∃ t, ((commands is).bind f).play (env.map fun l => l.map encode) s = some (f (), t) ∧
      PacketHeld c (is.foldl pktStored m) t ∧
      ((∀ l ∈ env, l = []) → t = { s with txPkt := t.txPkt, resp := t.resp }) ∧
      ((is = [] → s.resp = some (okWord 0)) → t.resp = some (okWord 0)) := by
  induction is generalizing env m s with
  | nil =>
    obtain rfl := List.length_eq_zero_iff.1 hlen
    exact ⟨s, play_nil _ s, hs, fun _ => rfl, fun h => h rfl⟩
  | cons i rest ih =>
    obtain ⟨l, env, rfl⟩ := List.exists_cons_of_length_eq_add_one hlen
    obtain ⟨hi, hrest⟩ := List.forall_mem_cons.1 his
    obtain ⟨hl, henv⟩ := List.forall_mem_cons.1 henv
    obtain ⟨u, hu, hheld, hquiet⟩ := hs.run_events hl
    obtain ⟨v, hv, hstored, hresp, hframe⟩ := hheld.exec_pktwr hi
    obtain ⟨t, ht, hlast, hframe', hresp'⟩ := ih hstored hrest (Nat.succ.inj hlen) henv
    refine ⟨t, ?_, hlast, fun halone => ?_, fun _ => hresp' fun _ => hresp⟩
    · rw [commands_bind_cons, List.map_cons, play_cons rfl hu hv, hresp, Option.getD_some, command_bind_answered, ht]
    · obtain ⟨hnone, halone⟩ := List.forall_mem_cons.1 halone
      rw [hframe' halone, hframe, hquiet hnone]

/-! ## The fields of the packet -/

/-- The fields of a packet and, after them, its checksum (R252). -/
def summedFields (L : Config.Layout) (h : Config.Header) (t : Byte) (dest : Uid) (cc : Byte) (pid : Half)
    (pd : List Byte) : List (Nat × List Byte) :=
  packetFields L h t dest cc pid pd ++ [(24 + pd.length, checksumBytes (packetBody L h t dest cc pid pd))]

section
variable {L : Config.Layout} (hL : L = Config.layout ∨ L = Config.Layout.alternative)
  (h : Config.Header) (t : Byte) (dest : Uid) (cc : Byte) (pid : Half) (pd : List Byte)

theorem packetWrites_eq (L : Config.Layout) :
    packetWrites L h t dest cc pid pd = pktwrFields (summedFields L h t dest cc pid pd) := by
  simp [packetWrites, summedFields, pktwrFields]

theorem checksumBytes_eq (l : List Byte) : checksumBytes l = [BitVec.ofNat 8 (checksum l)] := by
  simp [checksumBytes]

theorem uidBytes_length (u : Uid) : (uidBytes u).length = 6 := rfl

theorem packetWrites_length (L : Config.Layout) : (packetWrites L h t dest cc pid pd).length = 25 + pd.length := by
  simp only [packetWrites_eq, summedFields, packetFields, pktwrFields, List.length_flatMap, List.map_append,
    List.map_cons, List.map_nil, pktwrBytes_length, uidBytes_length, checksumBytes_eq, List.sum_append, List.sum_cons,
    List.sum_nil, List.length_cons, List.length_nil]
  omega

include hL

/-- The fields of either layout and the checksum after them do not overlap (R106). -/
theorem summedFields_disjoint : FieldsDisjoint (summedFields L h t dest cc pid pd) := by
  rcases hL with rfl | rfl <;>
    simp [FieldsDisjoint, summedFields, packetFields, uidBytes_length, checksumBytes_eq] <;> omega

theorem packetFields_disjoint : FieldsDisjoint (packetFields L h t dest cc pid pd) :=
  (List.pairwise_append.1 (summedFields_disjoint hL h t dest cc pid pd)).1

/-- The fields and the checksum end at offset 25 + n. -/
theorem summedFields_end : ∀ f ∈ summedFields L h t dest cc pid pd, f.1 + f.2.length ≤ 25 + pd.length := by
  rcases hL with rfl | rfl <;>
    simp [summedFields, packetFields, uidBytes_length, checksumBytes_eq] <;> omega

/-- The fields of either layout leave no gap below offset 24 + n (R106). -/
theorem packetFields_cover {k : Nat} (hk : k < 24 + pd.length) :
    ∃ f ∈ packetFields L h t dest cc pid pd, f.1 ≤ k ∧ k < f.1 + f.2.length := by
  rcases hL with rfl | rfl <;> simp [packetFields, uidBytes_length] <;> omega

end

/-! ## The numbers in the fields -/

/-- The six bytes of an address, put together, are the address (R109). -/
theorem bigEndian_uidBytes (u : Uid) : bigEndian (uidBytes u) = u.toNat := by
  have hu := u.isLt
  simp only [bigEndian, uidBytes, List.range_succ, List.range_zero, List.nil_append, List.map_append, List.map_cons,
    List.map_nil, List.foldl_append, List.foldl_cons, List.foldl_nil, toNat_uidByte]
  omega

/-- The two bytes of a 2-byte field, put together, are the field (R72). -/
theorem bigEndian_highByte_lowByte (x : Half) : bigEndian [highByte x, lowByte x] = x.toNat := by
  have hx := x.isLt
  simp only [bigEndian, highByte, lowByte, List.foldl_cons, List.foldl_nil, BitVec.extractLsb'_toNat,
    Nat.shiftRight_eq_div_pow]
  omega

/-! ## Reading the fields back -/

section
variable {s t : State} {fields : List (Nat × List Byte)} (hwf : s.txPkt.wf = true) (hdisj : FieldsDisjoint fields)
  (ht : t.txPkt = s.txPkt.writeFields fields)
include hwf hdisj ht

theorem byteAt_of_writeFields {f : Nat × List Byte} (hf : f ∈ fields) {j : Nat} (hj : j < f.2.length) :
    t.byteAt .txPkt (f.1 + j) = f.2[j] := by
  rw [State.byteAt, State.memory, ht, Memory.read_writeFields_inside hwf hdisj hf hj]

theorem bytesAt_of_writeFields {off : Nat} {l : List Byte} (hf : (off, l) ∈ fields) :
    t.bytesAt .txPkt off l.length = l := by
  refine List.ext_getElem (by simp [State.bytesAt]) fun j _ hj => ?_
  simp only [State.bytesAt, List.getElem_map, List.getElem_range]
  exact byteAt_of_writeFields hwf hdisj ht hf hj

theorem firstByteAt_of_writeFields {off : Nat} {b : Byte} (hf : (off, [b]) ∈ fields) : t.byteAt .txPkt off = b :=
  byteAt_of_writeFields hwf hdisj ht hf (j := 0) Nat.one_pos

theorem memRead_of_writeFields {off : Nat} {l : List Byte} (hf : (off, l) ∈ fields) :
    t.memRead .txPkt off l.length = bigEndian l := by
  rw [State.memRead, bytesAt_of_writeFields hwf hdisj ht hf]

end

/-- The bytes the checksum is taken of are the bytes before it in `TXPKT` (R107, R252). -/
theorem bytesAt_eq_packetBody {L : Config.Layout} (hL : L = Config.layout ∨ L = Config.Layout.alternative)
    {h : Config.Header} {c : Byte} {dest : Uid} {cc : Byte} {pid : Half} {pd : List Byte} {s t : State}
    (hwf : s.txPkt.wf = true) (ht : t.txPkt = s.txPkt.writeFields (summedFields L h c dest cc pid pd)) :
    t.bytesAt .txPkt 0 (24 + pd.length) = packetBody L h c dest cc pid pd := by
  refine List.map_congr_left fun k hk => ?_
  obtain ⟨f, hf, hlo, hhi⟩ := packetFields_cover hL h c dest cc pid pd (List.mem_range.1 hk)
  obtain ⟨j, rfl⟩ := Nat.exists_eq_add_of_le hlo
  have hj : j < f.2.length := by omega
  rw [Nat.zero_add, byteAt_of_writeFields hwf (summedFields_disjoint hL ..) ht (List.mem_append_left _ hf) hj,
    fieldByte_inside (packetFields_disjoint hL ..) hf hj]

/-! ## `BUILDPKT` -/

/-- `BUILDPKT` played with events before its commands: `NEXTTN` answers the counter value, the `PKTWR`s write the fields
and the checksum (R252, R77). -/
theorem PacketHeld.play_buildpkt {L : Config.Layout} (hL : L = Config.layout ∨ L = Config.Layout.alternative)
    (h : Config.Header) (dest : Uid) (cc : Byte) (pid : Half) {pd : List Byte} {c : Byte} {m : Memory} {s : State}
    {env : List (List Instr)} (hs : PacketHeld c m s) (hpd : pd.length ≤ 231) (hlen : env.length = 26 + pd.length)
    (henv : ∀ l ∈ env, ∀ i ∈ l, isCommand i = false) :
    ∃ t, (buildpkt L h dest cc pid pd).play (env.map fun l => l.map encode) s = some (.done c, t) ∧
      PacketHeld (c + 1#8) (m.writeFields (summedFields L h c dest cc pid pd)) t ∧
      ((∀ l ∈ env, l = []) → t = { s with tn := s.tn + 1#8, txPkt := t.txPkt, resp := some 0#32 }) := by
  obtain ⟨l, env, rfl⟩ := List.exists_cons_of_length_eq_add_one (hlen.trans (Nat.add_right_comm 25 1 pd.length))
  obtain ⟨hl, henv⟩ := List.forall_mem_cons.1 henv
  have hwrites := packetWrites_length h c dest cc pid pd L
  have hrest : env.length = (packetWrites L h c dest cc pid pd).length := by
    rw [List.length_cons] at hlen
    omega
  have hfit : ∀ f ∈ summedFields L h c dest cc pid pd, f.1 + f.2.length ≤ 256 := fun f hf =>
    (summedFields_end hL h c dest cc pid pd f hf).trans (by omega)
  have hrange : ∀ i ∈ packetWrites L h c dest cc pid pd, PktwrInRange i := by
    rw [packetWrites_eq]
    exact pktwrFields_inRange hfit
  obtain ⟨u, hu, hheld, hquiet⟩ := hs.run_events hl
  obtain ⟨v, hv, hnext, hresp, hframe⟩ := hheld.exec_nexttn
  obtain ⟨t, ht, hlast, hframe', hresp'⟩ :=
    hnext.play_pktwrs hrange hrest henv fun _ => HostProg.done c
  have hdata : (c.setWidth 27).setWidth 8 = c := by simp
  refine ⟨t, ?_, ?_, fun halone => ?_⟩
  · rw [List.map_cons, buildpkt, play_cons rfl hu hv, hresp, Option.getD_some, command_bind_answered, hdata, ht]
  · rwa [packetWrites_eq, foldl_pktwrFields hfit] at hlast
  · obtain ⟨hnone, halone⟩ := List.forall_mem_cons.1 halone
    have hzero : t.resp = some 0#32 :=
      (hresp' fun hnil => absurd (congrArg List.length hnil) (by rw [hwrites, List.length_nil]; omega)).trans
        (congrArg some okWord_zero)
    rw [hframe' halone, hframe, hquiet hnone, hzero]

/-- Settles O59: the program plays to the fields written one after another (`PacketHeld.play_buildpkt`); they do not
overlap (`summedFields_disjoint`), so each is read back, and the bytes above them stay. -/
theorem buildpktRule : Obligations.BuildpktRule := by
  refine ⟨rfl, fun L h dest cc pid pd s env hL hpd hI ha hlen henv => ?_⟩
  have hs : PacketHeld s.tn s.txPkt s := ⟨hI, ha, rfl, rfl⟩
  obtain ⟨t, hplay, ⟨_, _, htn, hpkt⟩, halone⟩ := hs.play_buildpkt hL h dest cc pid hpd hlen henv
  obtain ⟨hwf, _⟩ := hI.memory .txPkt
  have hdisj := summedFields_disjoint hL h s.tn dest cc pid pd
  have hbyte : ∀ {off : Nat} {b : Byte}, (off, [b]) ∈ packetFields L h s.tn dest cc pid pd → t.byteAt .txPkt off = b :=
    fun hf => firstByteAt_of_writeFields hwf hdisj hpkt (List.mem_append_left _ hf)
  have hnumber : ∀ {off : Nat} {l : List Byte}, (off, l) ∈ packetFields L h s.tn dest cc pid pd →
      t.memRead .txPkt off l.length = bigEndian l :=
    fun hf => memRead_of_writeFields hwf hdisj hpkt (List.mem_append_left _ hf)
  refine ⟨t, hplay, halone, htn, hbyte (by simp [packetFields]), hbyte (by simp [packetFields]), ?ml, ?dest, ?src,
    hbyte (by simp [packetFields]), hbyte (by simp [packetFields]), hbyte (by simp [packetFields]), ?sub,
    hbyte (by simp [packetFields]), ?pid, ?pdl, ?payload, ?checksum, fun k hk => ?above⟩
  case ml =>
    rw [hbyte (off := L.ml) (b := BitVec.ofNat 8 (24 + pd.length)) (by simp [packetFields]), BitVec.toNat_ofNat]
    omega
  case dest => exact (hnumber (l := uidBytes dest) (by simp [packetFields])).trans (bigEndian_uidBytes dest)
  case src =>
    exact (hnumber (l := uidBytes h.controllerUid) (by simp [packetFields])).trans (bigEndian_uidBytes h.controllerUid)
  case sub =>
    exact (hnumber (l := [highByte h.subdev, lowByte h.subdev]) (by simp [packetFields])).trans
      (bigEndian_highByte_lowByte h.subdev)
  case pid =>
    exact (hnumber (l := [highByte pid, lowByte pid]) (by simp [packetFields])).trans (bigEndian_highByte_lowByte pid)
  case pdl =>
    rw [hbyte (off := L.pdl) (b := BitVec.ofNat 8 pd.length) (by simp [packetFields]), BitVec.toNat_ofNat]
    omega
  case payload => exact bytesAt_of_writeFields hwf hdisj hpkt (List.mem_append_left _ (by simp [packetFields]))
  case checksum =>
    have hsum : t.byteAt .txPkt (24 + pd.length) = BitVec.ofNat 8 (checksum (packetBody L h s.tn dest cc pid pd)) :=
      firstByteAt_of_writeFields hwf hdisj hpkt (by simp [summedFields, checksumBytes_eq])
    rw [hsum, bytesAt_eq_packetBody hL hwf hpkt, BitVec.toNat_ofNat, checksum, checksumOf]
    exact Nat.mod_mod _ _
  case above =>
    rw [State.byteAt, State.memory, hpkt]
    refine Memory.read_writeFields_outside fun f hf => .inr ?_
    exact (summedFields_end hL h s.tn dest cc pid pd f hf).trans hk

end Sys2Proof.Machine
end

section
/-! What an instruction does while a transmit event is waited for (R183 to R187, R217 to R219): the frame or packet
stands still until that event, and the event brings its end nearer. -/

namespace Sys2Proof.Machine

/-- `TX_READY` or `TX_DONE` is taken (R183). -/
def Transmits (i : Instr) (s : State) : Prop :=
  i = .txReady ∧ s.txReadyEnabled = true ∨ i = .txDone ∧ s.txDoneEnabled = true

/-- A transmit event is waited for (R36). -/
def State.awaitsTransmit (s : State) : Prop := s.ieTxRdy = true ∨ s.ieTxDone = true

/-- In `TX_IDLE` the transmit event is `TX_DONE` (R51 I2). -/
theorem Transmits.of_idle {i : Instr} {s : State} (hI : Inv s) (h : Transmits i s) (hidle : s.txState = .txIdle) :
    i = .txDone ∧ s.txDoneEnabled = true := by
  refine h.resolve_left fun ⟨_, hon⟩ => ?_
  obtain ⟨_, hrdy, _⟩ := (txReadyEnabled_iff s).1 hon
  have := hI.ready hrdy
  simp [hidle, TxState.emitting] at this

/-- Who is not at rest, does not receive frames and does not wait for a response waits for a transmit event. -/
theorem Inv.awaitsTransmit {s : State} (hI : Inv s) (hq : s.quiescent = false) (hm : s.taskMode ≠ .contRecv)
    (hw : s.txState ≠ .txWaitResp) : s.awaitsTransmit := by
  by_cases hidle : s.txState = .txIdle
  · have hdeaf : s.ieRx = false := by
      simpa [hm, hw] using mt hI.listener
    by_contra hno
    obtain ⟨hrdy, hdone⟩ := not_or.1 hno
    simp [(quiescent_iff s).2 ⟨hidle, by simpa using hrdy, by simpa using hdone, hdeaf⟩] at hq
  · exact hI.expecting hidle hw

theorem Inv.run_of_awaitsTransmit {s : State} (hI : Inv s) (h : s.awaitsTransmit) : s.run = true := by
  by_contra hrun
  obtain ⟨_, hrdy, hdone, _⟩ := hI.stopped (by simpa using hrun)
  simp [State.awaitsTransmit, hrdy, hdone] at h

/-- `t` stands where `s` stands in the frame or packet, and `TXQ` has not grown. -/
structure StandsStill (s t : State) : Prop where
  phase : t.txState = s.txState
  index : t.txIdx = s.txIdx
  length : t.txPktLen = s.txPktLen
  ready : t.ieTxRdy = s.ieTxRdy
  done : t.ieTxDone = s.ieTxDone
  queue : t.txq.length ≤ s.txq.length

theorem StandsStill.refl (s : State) : StandsStill s s := ⟨rfl, rfl, rfl, rfl, rfl, Nat.le_refl _⟩

theorem StandsStill.trans {s t u : State} (h : StandsStill s t) (k : StandsStill t u) : StandsStill s u :=
  ⟨k.phase.trans h.phase, k.index.trans h.index, k.length.trans h.length, k.ready.trans h.ready,
    k.done.trans h.done, k.queue.trans h.queue⟩

theorem StandsStill.awaitsTransmit {s t : State} (h : StandsStill s t) (hs : s.awaitsTransmit) : t.awaitsTransmit := by
  rw [State.awaitsTransmit, h.ready, h.done]
  exact hs

/-- While a transmit event is waited for, every instruction but that event and `STOP` leaves the frame or packet where
it is (R160 to R166, R184 to R187, R217, R218). -/
theorem Effect.standsStill {i : Instr} {s t : State} (hI : Inv s) (haw : s.awaitsTransmit) (hno : ¬Transmits i s)
    (hstop : i = .stop → t.accepted = false) (e : Effect s i t) : StandsStill s t := by
  have hsend := hI.sending haw
  have hbusy : s.quiescent ≠ true := by simp [hsend.quiescent]
  have hrun := hI.run_of_awaitsTransmit haw
  cases e with
  | startout _ hq | startin _ hq => exact absurd (hq hrun) hbusy
  | sendtxnNow _ _ _ _ _ hq => exact absurd hq hbusy
  | stop => exact nomatch (accepted_of_okWord rfl).symm.trans (hstop rfl)
  | slotMore he | slotLast he | slotNone he | pktMore he | pktLast he => exact absurd (.inl ⟨rfl, he⟩) hno
  | frameEnd he | packetStart he | startCode he | packetFirst he | turnaround he => exact absurd (.inr ⟨rfl, he⟩) hno
  | resolvedResume _ _ _ _ _ _ _ _ _ _ _ _ _ hw | resolvedQuiet _ _ _ _ _ _ _ _ _ _ _ _ _ hw =>
    exact absurd hw hsend.ne_waitResp
  | shift p rest hx => exact ⟨rfl, rfl, rfl, rfl, rfl, by simp [hx]⟩
  | _ => exact ⟨rfl, rfl, rfl, rfl, rfl, Nat.le_refl _⟩

/-- `SHIFTOUT` with a byte held leaves one fewer (R182). -/
theorem Effect.txq_length_lt {s t : State} (hx : s.txq ≠ []) (e : Effect s .shiftout t) :
    t.txq.length < s.txq.length := by
  cases e with
  | reject _ _ hi | read _ _ hi => cases hi
  | shiftNone hnil => exact absurd hnil hx
  | shift p rest hcons => simp [hcons]
  | resolvedResume _ _ _ _ _ _ _ _ _ _ _ _ hi | resolvedQuiet _ _ _ _ _ _ _ _ _ _ _ _ hi => cases hi

/-- A bound on the transmit events still to come before the wait for a response, in a transaction: the rest of the
frame, at most 513 bytes, then the break and at most 256 bytes of the packet (R184 to R187, R217 to R219). -/
def sendRank (s : State) : Nat :=
  match s.txState with
  | .txBreak => 774
  | .txStart | .txData => 774 - s.txIdx.toNat
  | .txIdle => 260
  | .txPktBreak => 259
  | .txPktData => 2 + (s.txPktLen.toNat - s.txIdx.toNat)
  | .txPktLast => 1
  | .txWaitResp => 0

theorem StandsStill.sendRank {s t : State} (h : StandsStill s t) : sendRank t = sendRank s := by
  simp only [Machine.sendRank, h.phase, h.index, h.length]

theorem sendRank_slot {s : State} (hs : s.txState = .txStart ∨ s.txState = .txData) :
    sendRank s = 774 - s.txIdx.toNat := by
  rcases hs with hs | hs <;> simp only [sendRank, hs]

/-- Every transmit event brings the wait for a response nearer, but the one that ends a frame with no transaction
active. -/
theorem Effect.sendRank_lt {i : Instr} {s t : State} (hI : Inv s) (htr : Transmits i s)
    (hend : s.txState = .txIdle → s.txnActive = true) (e : Effect s i t) : sendRank t < sendRank s := by
  obtain ⟨hidx, _⟩ := hI.indices
  have hnext : (s.txIdx + 1#10).toNat = s.txIdx.toNat + 1 := toNat_add_one_of_lt (n := 514) (by omega) (by omega)
  rcases htr with ⟨rfl, hon⟩ | ⟨rfl, hon⟩
  · cases e with
    | reject _ _ hi | read _ _ hi | resolvedResume _ _ _ _ _ _ _ _ _ _ _ _ hi
    | resolvedQuiet _ _ _ _ _ _ _ _ _ _ _ _ hi => cases hi
    | txReadyOff hoff => simp [hoff] at hon
    | slotMore _ hs hi =>
      rw [sendRank_slot hs, sendRank_slot (.inr rfl)]
      show 774 - (s.txIdx + 1#10).toNat < _
      omega
    | slotLast _ hs hi => rw [sendRank_slot hs]; show 260 < _; omega
    | slotNone _ hs hi => rw [sendRank_slot (.inr hs)]; show 260 < _; omega
    | pktMore _ hs hi =>
      simp only [sendRank, hs, hnext]
      omega
    | pktLast _ hs => simp only [sendRank, hs]; omega
  · cases e with
    | reject _ _ hi | read _ _ hi | resolvedResume _ _ _ _ _ _ _ _ _ _ _ _ hi
    | resolvedQuiet _ _ _ _ _ _ _ _ _ _ _ _ hi => cases hi
    | txDoneOff hoff => simp [hoff] at hon
    | frameEnd _ hs hm => exact absurd (hend hs) (by simp [State.txnActive, hm])
    | packetStart _ hs => simp only [sendRank, hs]; omega
    | startCode _ hs => simp [sendRank, hs]
    | packetFirst _ hs =>
      have : (BitVec.ofNat 9 ((s.byteAt .txPkt 2).toNat + 1)).toNat ≤ 256 := by
        rw [toNat_packetLength]; omega
      simp only [sendRank, hs]
      show 2 + (_ - 1) < 259
      omega
    | turnaround _ hs => simp [sendRank, hs]

/-- Within a frame a transmit event leaves the frame going on, up to the `TX_IDLE` that waits for its end (R185 to
R187). -/
theorem Effect.frame_goes_on {i : Instr} {s t : State} (htr : Transmits i s)
    (hs : s.txState.inTransaction = false) (hidle : s.txState ≠ .txIdle) (e : Effect s i t) :
    t.txState.inTransaction = false ∧ t.awaitsTransmit := by
  rcases htr with ⟨rfl, hon⟩ | ⟨rfl, hon⟩
  · cases e with
    | reject _ _ hi | read _ _ hi | resolvedResume _ _ _ _ _ _ _ _ _ _ _ _ hi
    | resolvedQuiet _ _ _ _ _ _ _ _ _ _ _ _ hi => cases hi
    | txReadyOff hoff => simp [hoff] at hon
    | slotMore =>
      obtain ⟨_, hrdy, _⟩ := (txReadyEnabled_iff s).1 hon
      exact ⟨rfl, .inl hrdy⟩
    | slotLast | slotNone => exact ⟨rfl, .inr rfl⟩
    | pktMore _ hp | pktLast _ hp => simp [hp, TxState.inTransaction] at hs
  · cases e with
    | reject _ _ hi | read _ _ hi | resolvedResume _ _ _ _ _ _ _ _ _ _ _ _ hi
    | resolvedQuiet _ _ _ _ _ _ _ _ _ _ _ _ hi => cases hi
    | txDoneOff hoff => simp [hoff] at hon
    | frameEnd _ hp | packetStart _ hp => exact absurd hp hidle
    | startCode => exact ⟨rfl, .inl rfl⟩
    | packetFirst _ hp | turnaround _ hp => simp [hp, TxState.inTransaction] at hs

end Sys2Proof.Machine
end

section
/-! Infinite runs fair by F1 to F3 (R316): a transmit event that is waited for comes, so active transactions resolve and
frames keep ending. -/

namespace Sys2Proof.Machine

variable {σ : Nat → State} {x : Nat → Input}

/-! ## Steps of a run -/

/-- Every state of a run from the invariant meets it (R315). -/
theorem IsRun.inv (hrun : IsRun σ x) (hI : Inv (σ 0)) (n : Nat) : Inv (σ n) := by
  induction n with
  | zero => exact hI
  | succ n ih => exact runInput_keeps_inv ih (hrun n)

/-- What an input of a run decodes to has had its effect (R171). -/
theorem IsRun.effect (hrun : IsRun σ x) (hI : Inv (σ 0)) {n : Nat} {i : Instr} (hd : decode (x n) = .ok i) :
    Effect (σ n) i (σ (n + 1)) :=
  exec_effect (hrun.inv hI n) ((runInput_ok hd _).symm.trans (hrun n))

/-- Induction along an infinite run: what every instruction from step `n` on keeps, and the reject of an unlisted
opcode, holds from there on (R315). -/
theorem IsRun.keeps {P : State → Prop} {n : Nat} (hrun : IsRun σ x) (hI : Inv (σ 0)) (hn : P (σ n))
    (hreject : ∀ s, P s → P (afterReject .badOpcode s))
    (hstep : ∀ m i, n ≤ m → decode (x m) = .ok i → P (σ m) → Effect (σ m) i (σ (m + 1)) → P (σ (m + 1))) :
    ∀ m, n ≤ m → P (σ m) := by
  intro m hm
  induction m, hm using Nat.le_induction with
  | base => exact hn
  | succ m hm ih =>
    rcases runInput_eq_next (hrun m) with ⟨i, hd, _⟩ | hbad
    · exact hstep m i hm hd ih (hrun.effect hI hd)
    · rw [hbad]
      exact hreject _ ih

/-! ## The next transmit event -/

/-- From step `n` on no `STOP` is accepted (R162). -/
def NeverStops (σ : Nat → State) (x : Nat → Input) (n : Nat) : Prop :=
  ∀ m, n ≤ m → decode (x m) = .ok .stop → (σ (m + 1)).accepted = false

theorem NeverStops.mono {n m : Nat} (h : NeverStops σ x n) (hm : n ≤ m) : NeverStops σ x m :=
  fun k hk => h k (hm.trans hk)

/-- The next transmit event after step `n` is taken, and until then the frame or packet stands where it stood. -/
def TransmitComes (σ : Nat → State) (x : Nat → Input) (n : Nat) : Prop :=
  ∃ m i, n ≤ m ∧ decode (x m) = .ok i ∧ Transmits i (σ m) ∧ StandsStill (σ n) (σ m)

/-- Until the next transmit event the frame or packet stands still. -/
theorem IsRun.standsStill (hrun : IsRun σ x) (hI : Inv (σ 0)) {n : Nat} (haw : (σ n).awaitsTransmit)
    (hstop : NeverStops σ x n) (hno : ¬TransmitComes σ x n) : ∀ m, n ≤ m → StandsStill (σ n) (σ m) :=
  hrun.keeps hI (.refl _) (fun _ h => { h with }) fun m i hm hd h e =>
    h.trans (e.standsStill (hrun.inv hI m) (h.awaitsTransmit haw) (fun htr => hno ⟨m, i, hm, hd, htr, h⟩)
      fun hi => hstop m hm (hi ▸ hd))

theorem TransmitComes.of_standsStill {n m : Nat} (hm : n ≤ m) (h : StandsStill (σ n) (σ m)) (hc : TransmitComes σ x m) :
    TransmitComes σ x n := by
  obtain ⟨k, i, hk, hd, htr, hstands⟩ := hc
  exact ⟨k, i, hm.trans hk, hd, htr, h.trans hstands⟩

/-- Until the next transmit event the peripheral works `TXQ` off (F1). -/
theorem FairAgents.queue_empties (hfair : FairAgents σ x) (hrun : IsRun σ x) (hI : Inv (σ 0)) {n : Nat}
    (haw : (σ n).awaitsTransmit) (hstop : NeverStops σ x n) (hno : ¬TransmitComes σ x n) :
    ∃ m, n ≤ m ∧ (σ m).txq = [] := by
  induction hlen : (σ n).txq.length using Nat.strong_induction_on generalizing n with
  | _ len ih =>
    by_cases hx : (σ n).txq = []
    · exact ⟨n, Nat.le_refl n, hx⟩
    obtain ⟨m, hm, hd⟩ := hfair.shiftout n (by simpa [State.shiftoutEnabled] using hx)
    have hstill := hrun.standsStill hI haw hstop hno
    by_cases hy : (σ m).txq = []
    · exact ⟨m, hm, hy⟩
    have hm' : n ≤ m + 1 := by omega
    have hless := (hrun.effect hI hd).txq_length_lt hy
    obtain ⟨k, hk, hz⟩ := ih _ (hlen ▸ hless.trans_le (hstill m hm).queue) ((hstill _ hm').awaitsTransmit haw)
      (hstop.mono hm') (fun hc => hno (hc.of_standsStill hm' (hstill _ hm'))) rfl
    exact ⟨k, hm'.trans hk, hz⟩

/-- A transmit event that is waited for comes: `TXQ` empties (F1), from then on the event stays enabled, and it is taken
(F2). -/
theorem FairAgents.transmitComes (hfair : FairAgents σ x) (hrun : IsRun σ x) (hI : Inv (σ 0)) {n : Nat}
    (haw : (σ n).awaitsTransmit) (hstop : NeverStops σ x n) : TransmitComes σ x n := by
  by_contra hno
  have hstill := hrun.standsStill hI haw hstop hno
  obtain ⟨m, hm, hx⟩ := hfair.queue_empties hrun hI haw hstop hno
  have hawait : ∀ k, n ≤ k → (σ k).awaitsTransmit := fun k hk => (hstill k hk).awaitsTransmit haw
  have hempty : ∀ k, m ≤ k → (σ k).txq = [] := fun k hk => by
    have hnone : ¬TransmitComes σ x m := fun hc => hno (hc.of_standsStill hm (hstill m hm))
    simpa [hx] using (hrun.standsStill hI (hawait m hm) (hstop.mono hm) hnone k hk).queue
  have hon : ∀ k, n ≤ k → (σ k).run = true := fun k hk => (hrun.inv hI k).run_of_awaitsTransmit (hawait k hk)
  rcases haw with hrdy | hdone
  · have hstays : StaysFrom σ State.txReadyEnabled m := fun k hk => (txReadyEnabled_iff _).2
      ⟨hon k (hm.trans hk), (hstill k (hm.trans hk)).ready.trans hrdy, by simp [hempty k hk]⟩
    obtain ⟨k, hk, hd⟩ := hfair.txReady m hstays
    exact hno ⟨k, _, hm.trans hk, hd, .inl ⟨rfl, hstays k hk⟩, hstill k (hm.trans hk)⟩
  · have hstays : StaysFrom σ State.txDoneEnabled m := fun k hk => (txDoneEnabled_iff _).2
      ⟨hon k (hm.trans hk), (hstill k (hm.trans hk)).done.trans hdone,
        ((hrun.inv hI k).handed (hawait k (hm.trans hk))).resolve_left (absurd (hempty k hk))⟩
    obtain ⟨k, hk, hd⟩ := hfair.txDone m hstays
    exact hno ⟨k, _, hm.trans hk, hd, .inr ⟨rfl, hstays k hk⟩, hstill k (hm.trans hk)⟩

/-! ## Transactions resolve -/

theorem exec_stop_active {s t : State} (ha : s.txnActive = true) (h : exec .stop s = .next t) :
    t.accepted = false := by
  rw [exec, execStop, if_pos ha] at h
  cases h
  exact afterReject_accepted .busy s

/-- While a transaction is active no `STOP` is accepted (R228). -/
theorem IsRun.neverStops_of_active (hrun : IsRun σ x) {n : Nat}
    (ha : ∀ m, n ≤ m → (σ m).txnActive = true) : NeverStops σ x n := fun m hm hd =>
  exec_stop_active (ha m hm) ((runInput_ok hd _).symm.trans (hrun m))

/-- A transaction that stays active comes to wait for its response (R184, R217 to R219): each transmit event brings it
nearer. -/
theorem FairAgents.comes_to_wait (hfair : FairAgents σ x) (hrun : IsRun σ x) (hI : Inv (σ 0)) {n : Nat}
    (ha : ∀ m, n ≤ m → (σ m).txnActive = true) : ∃ m, n ≤ m ∧ (σ m).txState = .txWaitResp := by
  induction hrank : sendRank (σ n) using Nat.strong_induction_on generalizing n with
  | _ rank ih =>
    by_cases hw : (σ n).txState = .txWaitResp
    · exact ⟨n, Nat.le_refl n, hw⟩
    have hact := ha n (Nat.le_refl n)
    have haw := (hrun.inv hI n).awaitsTransmit ((hrun.inv hI n).underWay hact)
      (fun hm => by simp [State.txnActive, hm] at hact) hw
    obtain ⟨m, i, hm, hd, htr, hstands⟩ := hfair.transmitComes hrun hI haw (hrun.neverStops_of_active ha)
    have hlt := (hrun.effect hI hd).sendRank_lt (hrun.inv hI m) htr fun _ => ha m hm
    have hm' : n ≤ m + 1 := by omega
    obtain ⟨k, hk, hwait⟩ := ih _ (by rw [← hrank, ← hstands.sendRank]; exact hlt) (fun k hk => ha k (hm'.trans hk)) rfl
    exact ⟨k, hm'.trans hk, hwait⟩

/-- A transaction that stays active goes on waiting (R220 to R222), with no more ticks to go than before. -/
theorem IsRun.goes_on_waiting (hrun : IsRun σ x) (hI : Inv (σ 0)) {n : Nat}
    (ha : ∀ m, n ≤ m → (σ m).txnActive = true) (hw : (σ n).txState = .txWaitResp) :
    ∀ m, n ≤ m → (σ m).txState = .txWaitResp ∧ (σ m).toCnt.toNat ≤ (σ n).toCnt.toNat :=
  hrun.keeps (P := fun s => s.txState = .txWaitResp ∧ s.toCnt.toNat ≤ (σ n).toCnt.toNat) hI ⟨hw, Nat.le_refl _⟩
    (fun _ h => h) fun m i hm _ ⟨hwm, hle⟩ e => by
    rcases e.resolved_or_waits (hrun.inv hI m) hwm with hres | ⟨hw', hcnt⟩
    · exact absurd hres.inactive (by simp [ha (m + 1) (by omega)])
    · exact ⟨hw', by omega⟩

/-- No transaction waits for ever: the ticks come (F3), and each leaves one fewer to go (R222). -/
theorem FairAgents.not_waits_forever (hfair : FairAgents σ x) (hrun : IsRun σ x) (hI : Inv (σ 0)) {n : Nat}
    (ha : ∀ m, n ≤ m → (σ m).txnActive = true) : (σ n).txState ≠ .txWaitResp := by
  intro hw
  induction hcnt : (σ n).toCnt.toNat using Nat.strong_induction_on generalizing n with
  | _ cnt ih =>
    have hwaits := hrun.goes_on_waiting hI ha hw
    obtain ⟨m, hm, hd⟩ := hfair.tick n fun k hk => decide_eq_true (hwaits k hk).1
    obtain ⟨hwm, hle⟩ := hwaits m hm
    have hm' : n ≤ m + 1 := by omega
    rcases (hrun.effect hI hd).resolved_or_waits (hrun.inv hI m) hwm with hres | ⟨hw', hless⟩
    · exact absurd hres.inactive (by simp [ha (m + 1) hm'])
    · rw [List.count_singleton_self] at hless
      exact ih _ (by omega) (fun k hk => ha k (hm'.trans hk)) hw' rfl

/-- R228: every active transaction resolves. -/
theorem FairAgents.resolves (hfair : FairAgents σ x) (hrun : IsRun σ x) (hI : Inv (σ 0)) (n : Nat) :
    ∃ m, n ≤ m ∧ (σ m).txnActive = false := by
  by_contra hno
  have ha : ∀ m, n ≤ m → (σ m).txnActive = true := fun m hm => by
    by_contra h
    exact hno ⟨m, hm, by simpa using h⟩
  obtain ⟨m, hm, hw⟩ := hfair.comes_to_wait hrun hI ha
  exact hfair.not_waits_forever hrun hI (fun k hk => ha k (hm.trans hk)) hw

/-! ## Frames go on -/

theorem NotStoppedFrom.neverStops {n : Nat} (h : NotStoppedFrom σ x n) : NeverStops σ x n :=
  fun m hm hd => h m _ hm hd (.inl rfl)

/-- A frame that goes out ends: each transmit event brings its end nearer (R184 to R187). -/
theorem FairAgents.frame_ends (hfair : FairAgents σ x) (hrun : IsRun σ x) (hI : Inv (σ 0)) {n : Nat}
    (haw : (σ n).awaitsTransmit) (hs : (σ n).txState.inTransaction = false) (hstop : NeverStops σ x n) :
    ∃ m, n ≤ m ∧ FrameEndsAt σ x m := by
  induction hrank : sendRank (σ n) using Nat.strong_induction_on generalizing n with
  | _ rank ih =>
    obtain ⟨m, i, hm, hd, htr, hstands⟩ := hfair.transmitComes hrun hI haw hstop
    have hIm := hrun.inv hI m
    by_cases hidle : (σ m).txState = .txIdle
    · obtain ⟨rfl, hon⟩ := htr.of_idle hIm hidle
      exact ⟨m, hm, hidle, hon, hd⟩
    have e := hrun.effect hI hd
    obtain ⟨hs', haw'⟩ := e.frame_goes_on htr (hstands.phase ▸ hs) hidle
    have hlt := e.sendRank_lt hIm htr fun h => absurd h hidle
    have hm' : n ≤ m + 1 := by omega
    obtain ⟨k, hk, hend⟩ := ih _ (by rw [← hrank, ← hstands.sendRank]; exact hlt) haw' hs' (hstop.mono hm') rfl
    exact ⟨k, hm'.trans hk, hend⟩

/-- Every instruction leaves frames being sent, but an accepted `STOP` or `SENDTXN` without `RESUME` (R310). -/
theorem Effect.sendsFrames {i : Instr} {s t : State} (hI : Inv s) (hs : s.sendsFrames)
    (hstop : (i = .stop ∨ ∃ f : Byte, f.getLsbD 0 = false ∧ i = .sendtxn f) → t.accepted = false)
    (e : Effect s i t) : t.sendsFrames := by
  obtain ⟨hrun, hmode⟩ := hs
  have hbusy : s.txnActive = false → s.quiescent ≠ true := by
    rcases hmode with hm | ⟨_, hq⟩
    · simp [State.txnActive, hm]
    · simp [hq]
  have hgoes : t.run = s.run → t.taskMode = s.taskMode → t.quiescent = false → t.sendsFrames := fun hr hm hq =>
    ⟨hr.trans hrun, hm ▸ hmode.imp_right fun h => ⟨h.1, hq⟩⟩
  cases e with
  | startout ha hq | startin ha hq => exact absurd (hq hrun) (hbusy ha)
  | stop => exact nomatch (accepted_of_okWord rfl).symm.trans (hstop (.inl rfl))
  | sendtxnNow f _ ha _ _ hq => exact absurd hq (hbusy ha)
  | sendtxnLater f =>
    cases hf : f.getLsbD 0 with
    | false => exact nomatch (accepted_of_okWord rfl).symm.trans (hstop (.inr ⟨f, hf, rfl⟩))
    | true => exact ⟨hrun, .inl (by simp [flagBit, hf])⟩
  | slotMore | slotLast | slotNone | pktLast | frameEnd | packetStart | startCode | packetFirst | turnaround =>
    exact hgoes rfl rfl rfl
  | resolvedResume _ u _ _ _ _ _ _ _ _ _ _ _ _ _ _ hu => exact ⟨hu ▸ hrun, .inr ⟨rfl, rfl⟩⟩
  | resolvedQuiet _ u _ _ _ _ _ _ _ _ _ _ _ hw hne =>
    obtain ⟨hm, _⟩ := hmode.resolve_left hne
    have hact := hI.txnActive_of_waitResp hw
    simp [State.txnActive, hm] at hact
  | _ => exact ⟨hrun, hmode⟩

/-- Frames go on being sent while they are not stopped (R310). -/
theorem IsRun.sendsFrames (hrun : IsRun σ x) (hI : Inv (σ 0)) {n : Nat} (hs : (σ n).sendsFrames)
    (hgo : NotStoppedFrom σ x n) : ∀ m, n ≤ m → (σ m).sendsFrames :=
  hrun.keeps hI hs (fun _ h => h) fun m i hm hd h e => e.sendsFrames (hrun.inv hI m) h (hgo m i hm hd)

/-- R316: frames that are sent and not stopped keep ending. Under a transaction with `RESUME` this waits for its
end, which begins the next frame (R225). -/
theorem FairAgents.frames_keep_ending (hfair : FairAgents σ x) (hrun : IsRun σ x) (hI : Inv (σ 0)) {n : Nat}
    (hs : (σ n).sendsFrames) (hgo : NotStoppedFrom σ x n) {k : Nat} (hk : n ≤ k) :
    ∃ m, k ≤ m ∧ FrameEndsAt σ x m := by
  obtain ⟨m, hm, hidle⟩ := hfair.resolves hrun hI k
  have hIm := hrun.inv hI m
  have hpkt : (σ m).txState.inTransaction = false := by simpa [hidle] using mt hIm.inPacket
  obtain ⟨_, hmode⟩ := hrun.sendsFrames hI hs hgo m (hk.trans hm)
  have hsend : (σ m).taskMode = .contSend ∧ (σ m).quiescent = false :=
    hmode.resolve_left fun h => by simp [State.txnActive, h] at hidle
  have haw := hIm.awaitsTransmit hsend.2 (by simp [hsend.1]) (fun hw => by simp [hw, TxState.inTransaction] at hpkt)
  obtain ⟨j, hj, hend⟩ := hfair.frame_ends hrun hI haw hpkt (hgo.neverStops.mono (hk.trans hm))
  exact ⟨j, hm.trans hj, hend⟩

end Sys2Proof.Machine
end

section
/-! Infinite runs of a host program, fair by F4 too (R316): its commands are issued, and its spins end (R253, R259). -/

namespace Sys2Proof.Machine

variable {α β : Type} {π : Nat → HostProg α} {σ : Nat → State} {x : Nat → Input}

/-! ## The commands of a host run -/

theorem isCommand_eq_false_of_decode_event {w : EvWord} {i : Instr} (h : decode (.event w) = .ok i) :
    isCommand i = false := by
  rw [decode] at h
  unfold decodeEvent at h
  split at h <;> cases h <;> rfl

/-- The program waits, unchanged, until the host issues its next command (F4, R77, R250). -/
theorem IsHostRun.next_command (h : IsHostRun π σ x) (hfair : FairHost π x) {n : Nat} {i : Instr}
    (hi : (π n).nextCommand = some i) :
    ∃ m, n ≤ m ∧ x m = encode i ∧ π (m + 1) = (π n).answered ((σ (m + 1)).resp.getD 0) := by
  by_contra hno
  have hissue : ∀ m, n ≤ m → π m = π n → ∀ w, x m ≠ .host w := fun m hm hp w hx => by
    obtain ⟨j, hj, hw, hq⟩ := hostStep_host (hx ▸ h.host m)
    rw [hp] at hj hq
    cases hi.symm.trans hj
    exact hno ⟨m, hm, hx.trans hw.symm, hq⟩
  have hsame : ∀ m, n ≤ m → π m = π n := fun m hm => by
    induction m, hm using Nat.le_induction with
    | base => rfl
    | succ m hm ih =>
      rcases h.host m with ⟨_, w, _, _, hx, _⟩ | ⟨_, _, hq⟩
      · exact absurd hx (hissue m hm ih w)
      · exact hq.trans ih
  obtain ⟨m, w, hm, hx⟩ := hfair n ((ended_eq_none_iff (π n)).2 ⟨i, hi⟩)
  exact hissue m hm (hsame m hm) w hx

/-! ## Spins -/

/-- `RDSTATUS` answers the status it finds (R167). -/
theorem IsRun.resp_rdstatus (hrun : IsRun σ x) {m : Nat} (hx : x m = encode .rdstatus) :
    (σ (m + 1)).resp.getD 0 = okWord (σ m).status := by
  have h := hrun m
  rw [hx, runInput_encode] at h
  rw [← show _ = σ (m + 1) from Host.Outcome.next.inj h]
  rfl

variable {stop : Data → Bool} {max : Config.SpinMax} {k : Data → HostProg α}

/-- The next read of a spin: it goes on with the status read, or, unless the bound is reached, spins on (R253, R259). -/
theorem IsHostRun.next_read (h : IsHostRun π σ x) (hfair : FairHost π x) {n : Nat} (hn : π n = .spin stop max k) :
    ∃ m, n ≤ m ∧ π (m + 1) =
      if stop (σ m).status || spinSpent max then k (σ m).status else .spin stop (spinLess max) k := by
  obtain ⟨m, hm, hx, hq⟩ := h.next_command hfair (i := .rdstatus) (by rw [hn]; rfl)
  exact ⟨m, hm, by rw [hq, hn, h.run.resp_rdstatus hx, spin_answered]⟩

/-- A spin with a bound ends (R253, R259, R260 e). -/
theorem IsHostRun.bounded_spin_ends (h : IsHostRun π σ x) (hfair : FairHost π x) {bound n : Nat}
    (hn : π n = .spin stop (.finite bound) k) : ∃ m d, π m = k d := by
  induction bound generalizing n with
  | zero =>
    obtain ⟨m, _, hq⟩ := h.next_read hfair hn
    exact ⟨m + 1, _, hq.trans (if_pos (by simp [spinSpent]))⟩
  | succ bound ih =>
    obtain ⟨m, _, hq⟩ := h.next_read hfair hn
    split at hq
    · exact ⟨m + 1, _, hq⟩
    · exact ih hq

/-- A spin without a bound either never ends, or goes on with a status that ends it, in any run (R253, R259). -/
theorem IsHostRun.unbounded_spin (h : IsHostRun π σ x) {n : Nat} (hn : π n = .spin stop .unbounded k) :
    (∀ m, n ≤ m → π m = .spin stop .unbounded k) ∨ ∃ m d, stop d = true ∧ π m = k d := by
  by_contra hno
  obtain ⟨hleaves, hnone⟩ := not_or.1 hno
  refine hleaves fun m hm => ?_
  induction m, hm using Nat.le_induction with
  | base => exact hn
  | succ m _ ih =>
    rcases h.host m with ⟨i, w, hi, hw, hx, hq⟩ | ⟨w, _, hq⟩
    · rw [ih] at hi hq
      cases hi
      rw [h.run.resp_rdstatus (hx.trans hw.symm), spin_answered] at hq
      split at hq
      next hend => exact absurd ⟨m + 1, _, by simpa [spinSpent] using hend, hq⟩ hnone
      next => exact hq
    · exact hq.trans ih

/-- A spin without a bound ends when, while it goes on, there comes a time from which on every status would end it. -/
theorem IsHostRun.unbounded_spin_ends (h : IsHostRun π σ x) (hfair : FairHost π x) {n : Nat}
    (hn : π n = .spin stop .unbounded k)
    (hlive : (∀ m, n ≤ m → π m = .spin stop .unbounded k) → ∃ j, n ≤ j ∧ ∀ m, j ≤ m → stop (σ m).status = true) :
    ∃ m d, stop d = true ∧ π m = k d := by
  refine (h.unbounded_spin hn).elim (fun hspin => ?_) id
  obtain ⟨j, hj, hstop⟩ := hlive hspin
  obtain ⟨m, hm, hq⟩ := h.next_read hfair (hspin j hj)
  exact ⟨m + 1, _, hstop m hm, hq.trans (if_pos (by simp [hstop m hm]))⟩

/-! ## While a host program spins -/

/-- From step `n` on the host issues nothing but `RDSTATUS`. -/
def OnlyReads (x : Nat → Input) (n : Nat) : Prop :=
  ∀ m i, n ≤ m → decode (x m) = .ok i → isCommand i = false ∨ i = .rdstatus

theorem OnlyReads.mono {n m : Nat} (h : OnlyReads x n) (hm : n ≤ m) : OnlyReads x m :=
  fun k i hk => h k i (hm.trans hk)

theorem OnlyReads.ne_sendtxn {n m : Nat} {i : Instr} (h : OnlyReads x n) (hm : n ≤ m) (hd : decode (x m) = .ok i)
    (f : Byte) : i ≠ .sendtxn f := by
  rintro rfl
  rcases h m _ hm hd with hi | hi <;> cases hi

/-- A spin without end issues nothing else (R253, R259). -/
theorem IsHostRun.onlyReads (h : IsHostRun π σ x) {n : Nat} (hspin : ∀ m, n ≤ m → π m = .spin stop max k) :
    OnlyReads x n := fun m i hm hd => by
  rcases h.host m with ⟨j, w, hj, hw, hx, _⟩ | ⟨w, hx, _⟩
  · rw [hspin m hm] at hj
    cases hj
    rw [hx, ← hw, decode_encode] at hd
    exact .inr (Except.ok.inj hd).symm
  · exact .inl (isCommand_eq_false_of_decode_event (hx ▸ hd))

/-- Without `SENDTXN` no transaction becomes active (R166, R51 I7). -/
theorem OnlyReads.stays_inactive {n : Nat} (hreads : OnlyReads x n) (hrun : IsRun σ x) (hI : Inv (σ 0))
    (hidle : (σ n).txnActive = false) : ∀ m, n ≤ m → (σ m).txnActive = false :=
  hrun.keeps (P := fun s => s.txnActive = false) hI hidle (fun _ h => h) fun m i hm hd h e => by
    have hsame := e.sameResponse (hrun.inv hI m) h (hreads.ne_sendtxn hm hd)
    have hsettled := hsame.result ▸ (hrun.inv hI m).result_ne_pending h
    simpa [← (hrun.inv hI (m + 1)).pending] using hsettled

/-- The condition of `SENDWAIT`'s spin, in terms of the state read (R47, R253). -/
theorem statusResolved_status (s : State) : statusResolved s.status = true ↔ s.result ≠ .pending := by
  obtain ⟨_, _, _, hresult, _⟩ := status_codes s
  rw [statusResolved, statusResult, hresult]
  cases s.result <;> decide

/-- The condition of `WAITFRAME`'s spin, in terms of the state read (R47, R259). -/
theorem statusFrameSent_status (s : State) : statusFrameSent s.status = s.frameSent := by
  obtain ⟨_, _, _, _, hsent, _⟩ := status_bits s
  exact hsent

/-- While the host only reads, there comes a time from which on the outcome is shown (R228, R78 c). -/
theorem FairAgents.shows_outcome (hfair : FairAgents σ x) (hrun : IsRun σ x) (hI : Inv (σ 0)) {n : Nat}
    (hreads : OnlyReads x n) : ∃ j, n ≤ j ∧ ∀ m, j ≤ m → statusResolved (σ m).status = true := by
  obtain ⟨j, hj, hidle⟩ := hfair.resolves hrun hI n
  refine ⟨j, hj, fun m hm => (statusResolved_status _).2 ((hrun.inv hI m).result_ne_pending ?_)⟩
  exact (hreads.mono hj).stays_inactive hrun hI hidle m hm

/-- The end of a frame with no transaction active sets `FRAME_SENT` (R37, R184). -/
theorem IsRun.frameSent_of_frameEnds (hrun : IsRun σ x) (hI : Inv (σ 0)) {n : Nat} (hend : FrameEndsAt σ x n)
    (hidle : (σ n).txnActive = false) : (σ (n + 1)).frameSent = true := by
  obtain ⟨hphase, hon, hd⟩ := hend
  obtain ⟨hr, hdone, hc⟩ := (txDoneEnabled_iff _).1 hon
  have h := (txDoneAtFrameEnd _ hr hdone hc hphase ((hrun.inv hI n).complete hc)).symm.trans
    ((runInput_ok hd _).symm.trans (hrun n))
  rw [← Host.Outcome.next.inj h]
  split
  · rfl
  · simp [hidle]

/-- Only the break of a packet clears `FRAME_SENT` (R37, R180). -/
theorem Effect.frameSent_stays {i : Instr} {s t : State} (ha : s.txnActive = false) (hi : ∀ f, i ≠ .sendtxn f)
    (hs : s.frameSent = true) (e : Effect s i t) : t.frameSent = true := by
  cases e with
  | sendtxnNow f | sendtxnLater f => exact absurd rfl (hi f)
  | packetStart _ _ hact => simp [ha] at hact
  | frameEnd => rfl
  | resolvedResume _ _ _ _ _ _ _ _ _ _ _ _ _ _ _ _ hu | resolvedQuiet _ _ _ _ _ _ _ _ _ _ _ _ _ _ _ _ hu =>
    exact hu ▸ hs
  | _ => exact hs

/-- While the host only reads and frames are sent, there comes a time from which on `FRAME_SENT` is set (R259). -/
theorem FairAgents.shows_frame (hfair : FairAgents σ x) (hrun : IsRun σ x) (hI : Inv (σ 0)) {n : Nat}
    (hreads : OnlyReads x n) (hs : (σ n).sendsFrames) :
    ∃ j, n ≤ j ∧ ∀ m, j ≤ m → statusFrameSent (σ m).status = true := by
  have hgo : NotStoppedFrom σ x n := fun m i hm hd hi => by
    rcases hreads m i hm hd with hev | hev <;> rcases hi with rfl | ⟨f, _, rfl⟩ <;> cases hev
  obtain ⟨j, hj, hidle⟩ := hfair.resolves hrun hI n
  have hinactive := (hreads.mono hj).stays_inactive hrun hI hidle
  obtain ⟨m, hm, hend⟩ := hfair.frames_keep_ending hrun hI hs hgo hj
  have hm' : j ≤ m + 1 := by omega
  refine ⟨m + 1, hj.trans hm', fun k hk => (statusFrameSent_status _).trans ?_⟩
  exact hrun.keeps (P := fun s => s.frameSent = true) hI (hrun.frameSent_of_frameEnds hI hend (hinactive m hm))
    (fun _ h => h) (fun l i hl hd h e => e.frameSent_stays (hinactive l (hm'.trans hl))
      (hreads.ne_sendtxn (hj.trans (hm'.trans hl)) hd) h) k hk

end Sys2Proof.Machine
end

section
/-! The pseudo-operations return in fair runs (R260 e): every spin of theirs has a bound, or waits for the outcome of a
transaction or for a frame. -/

namespace Sys2Proof.Machine

variable {α β : Type} {π : Nat → HostProg α} {σ : Nat → State} {x : Nat → Input}

/-! ## Programs whose spins end -/

/-- Every spin of the program has a bound or waits for the outcome of a transaction. -/
inductive SpinsEnd {α : Type} : HostProg α → Prop where
  | done (a : α) : SpinsEnd (.done a)
  | rejected (c : BitVec 4) : SpinsEnd (.rejected c)
  | issue {i : Instr} {k : RespWord → HostProg α} (hk : ∀ w, SpinsEnd (k w)) : SpinsEnd (.issue i k)
  | bounded {stop : Data → Bool} {bound : Nat} {k : Data → HostProg α} (hk : ∀ d, SpinsEnd (k d)) :
      SpinsEnd (.spin stop (.finite bound) k)
  | resolves {k : Data → HostProg α} (hk : ∀ d, SpinsEnd (k d)) : SpinsEnd (.spin statusResolved .unbounded k)

/-- Such a program returns in every fair run (R260 e): its commands are issued (F4), and each of its spins ends. -/
theorem SpinsEnd.ends {p : HostProg α} (hp : SpinsEnd p) (h : IsHostRun π σ x) (hfair : FairAgents σ x)
    (hhost : FairHost π x) (hI : Inv (σ 0)) {n : Nat} (hn : π n = p) : ∃ m r, (π m).ended = some r := by
  induction hp generalizing n with
  | done a => exact ⟨n, .done a, by rw [hn]; rfl⟩
  | rejected c => exact ⟨n, .rejected c, by rw [hn]; rfl⟩
  | issue _ ih =>
    obtain ⟨m, _, _, hq⟩ := h.next_command hhost (by rw [hn]; rfl)
    exact ih _ (hq.trans (by rw [hn]; rfl))
  | bounded _ ih =>
    obtain ⟨m, d, hq⟩ := h.bounded_spin_ends hhost hn
    exact ih d hq
  | resolves _ ih =>
    obtain ⟨m, d, _, hq⟩ := h.unbounded_spin_ends hhost hn fun hspin =>
      hfair.shows_outcome h.run hI (h.onlyReads hspin)
    exact ih d hq

theorem SpinsEnd.returnsWhenFair {p : HostProg α} (hp : SpinsEnd p) : ReturnsWhenFair p :=
  fun _ _ _ h hfair hhost hI h0 => by
    obtain ⟨m, r, hr⟩ := hp.ends h hfair hhost hI h0
    exact ⟨r, m, ended_stays h hr⟩

theorem SpinsEnd.bind {p : HostProg α} {f : α → HostProg β} (hp : SpinsEnd p) (hf : ∀ a, SpinsEnd (f a)) :
    SpinsEnd (p.bind f) := by
  induction hp with
  | done a => exact hf a
  | rejected c => exact .rejected c
  | issue _ ih => exact .issue ih
  | bounded _ ih => exact .bounded ih
  | resolves _ ih => exact .resolves ih

/-! ## The pseudo-operations -/

theorem spinsEnd_command (i : Instr) : SpinsEnd (command i) :=
  .issue fun w => by
    split
    · exact .rejected _
    · exact .done _

theorem spinsEnd_commands (l : List Instr) : SpinsEnd (commands l) := by
  induction l with
  | nil => exact .done ()
  | cons i rest ih => exact (spinsEnd_command i).bind fun _ => ih

theorem spinsEnd_buildpkt (L : Config.Layout) (h : Config.Header) (dest : Uid) (cc : Byte) (pid : Half)
    (pd : List Byte) : SpinsEnd (buildpkt L h dest cc pid pd) :=
  (spinsEnd_command .nexttn).bind fun _ => (spinsEnd_commands _).bind fun _ => .done _

theorem spinsEnd_spinUntil_finite (stop : Data → Bool) (n : Nat) : SpinsEnd (spinUntil stop (.finite n)) :=
  .bounded .done

theorem spinsEnd_spinUntil_resolved (max : Config.SpinMax) : SpinsEnd (spinUntil statusResolved max) := by
  cases max with
  | finite n => exact spinsEnd_spinUntil_finite _ n
  | unbounded => exact .resolves .done

theorem spinsEnd_sendwait (max : Config.SpinMax) (f : Byte) : SpinsEnd (sendwait max f) :=
  (spinsEnd_command (.sendtxn f)).bind fun _ => (spinsEnd_spinUntil_resolved max).bind fun _ => .done _

theorem spinsEnd_readDisc (k n acc : Nat) : SpinsEnd (readDisc k n acc) := by
  induction n generalizing k acc with
  | zero => exact .done _
  | succ n ih => exact (spinsEnd_command _).bind fun _ => ih _ _

theorem spinsEnd_readPkt (off n : Nat) : SpinsEnd (readPkt off n) := by
  induction n generalizing off with
  | zero => exact .done _
  | succ n ih => exact (spinsEnd_command _).bind fun _ => (ih _).bind fun _ => .done _

theorem spinsEnd_discover (L : Config.Layout) (h : Config.Header) (max : Config.SpinMax) (lo hi : Uid) (r : Byte) :
    SpinsEnd (discover L h max lo hi r) := by
  refine (spinsEnd_buildpkt ..).bind fun _ => (spinsEnd_sendwait ..).bind fun a => ?_
  split
  · exact .done _
  · refine (spinsEnd_command .rdstatus).bind fun d => ?_
    split
    · exact (spinsEnd_readDisc ..).bind fun _ => .done _
    · split
      · exact .done _
      · exact .done _

theorem spinsEnd_get (L : Config.Layout) (h : Config.Header) (max : Config.SpinMax) (uid : Uid) (pid : Half)
    (r : Byte) : SpinsEnd (get L h max uid pid r) := by
  refine (spinsEnd_buildpkt ..).bind fun _ => (spinsEnd_sendwait ..).bind fun a => ?_
  split
  · exact (spinsEnd_command _).bind fun _ => (spinsEnd_readPkt ..).bind fun _ => .done _
  · exact .done _

/-- The calls that send a packet: it is built, and sent (R255, R256, R258). -/
theorem spinsEnd_buildpkt_sendwait (L : Config.Layout) (h : Config.Header) (max : Config.SpinMax) (dest : Uid)
    (cc : Byte) (pid : Half) (pd : List Byte) (r : Byte) :
    SpinsEnd ((buildpkt L h dest cc pid pd).bind fun _ => sendwait max r) :=
  (spinsEnd_buildpkt ..).bind fun _ => spinsEnd_sendwait max r

/-! ## What an unbounded spin does not return -/

/-- No path through the program that respects its spins ends in `r`; every spin is unbounded. -/
inductive NeverReturns {α : Type} (r : α) : HostProg α → Prop where
  | done {a : α} (ha : a ≠ r) : NeverReturns r (.done a)
  | rejected (c : BitVec 4) : NeverReturns r (.rejected c)
  | issue {i : Instr} {k : RespWord → HostProg α} (hk : ∀ w, NeverReturns r (k w)) : NeverReturns r (.issue i k)
  | spin {stop : Data → Bool} {k : Data → HostProg α} (hk : ∀ d, stop d = true → NeverReturns r (k d)) :
      NeverReturns r (.spin stop .unbounded k)

theorem NeverReturns.answered {r : α} {p : HostProg α} (hp : NeverReturns r p) (w : RespWord) :
    NeverReturns r (p.answered w) := by
  cases hp with
  | done ha => exact .done ha
  | rejected c => exact .rejected c
  | issue hk => exact hk w
  | spin hk =>
    rw [HostProg.answered]
    split
    · exact .rejected _
    · split
      next hend => exact hk _ (by simpa [spinSpent] using hend)
      next => exact .spin hk

theorem NeverReturns.ended_ne {r : α} {p : HostProg α} (hp : NeverReturns r p) : p.ended ≠ some (.done r) := by
  cases hp with
  | done ha => simpa [HostProg.ended] using ha
  | rejected | issue | spin => simp [HostProg.ended]

/-- A run of the program goes through its answers only (R250). -/
theorem NeverReturns.run {r : α} (h : IsHostRun π σ x) (h0 : NeverReturns r (π 0)) (n : Nat) :
    NeverReturns r (π n) := by
  induction n with
  | zero => exact h0
  | succ n ih =>
    rcases h.host n with ⟨_, _, _, _, _, hq⟩ | ⟨_, _, hq⟩
    · exact hq ▸ ih.answered _
    · exact hq ▸ ih

/-- A resolved transaction is a success or a no-reply, not a spin that gave up (R253). -/
theorem callResultOf_ne_spinExhausted {d : Data} (h : statusResolved d = true) : callResultOf d ≠ .spinExhausted := by
  have hne : statusResult d ≠ TxnResult.pending.code := by simpa [statusResolved] using h
  rw [callResultOf, if_neg hne]
  split <;> decide

theorem neverReturns_command_bind {r : β} (i : Instr) {f : Data → HostProg β} (hf : ∀ d, NeverReturns r (f d)) :
    NeverReturns r ((command i).bind f) :=
  .issue fun w => by
    dsimp only
    split
    · exact .rejected _
    · exact hf _

theorem neverReturns_sendwait (f : Byte) : NeverReturns .spinExhausted (sendwait .unbounded f) :=
  neverReturns_command_bind _ fun _ => .spin fun _ hd => .done (callResultOf_ne_spinExhausted hd)

/-! ## `WAITFRAME` -/

/-- In its precondition an unbounded `WAITFRAME` returns true: a frame ends, and the spin ends with a status that
says so (R259). -/
theorem waitframe_returns_true {π : Nat → HostProg Bool} (h : IsHostRun π σ x) (hfair : FairAgents σ x)
    (hhost : FairHost π x) (hI : Inv (σ 0)) (hs : (σ 0).sendsFrames) (h0 : π 0 = waitframe .unbounded) :
    Returns π (.done true) := by
  obtain ⟨m, d, hd, hq⟩ := h.unbounded_spin_ends hhost h0 fun hspin =>
    hfair.shows_frame h.run hI (h.onlyReads hspin) hs
  refine ⟨m, ended_stays h ?_⟩
  rw [hq, bind_done, hd]
  rfl

/-- Settles O60. A transmit event that is waited for comes (`FairAgents.transmitComes`), and each brings the end of the
frame or the wait for the response nearer (`Effect.sendRank_lt`), so frames end and transactions resolve; the spins of
the pseudo-operations end with them (`SpinsEnd.ends`, `IsHostRun.unbounded_spin_ends`). -/
theorem fairRunsComplete : Obligations.FairRunsComplete := by
  refine ⟨fun σ x hrun hfair hI n => ⟨fun _ => ?transaction, ?frames⟩, ?calls, ?unbounded, ?bounded, ?waitframe⟩
  case transaction =>
    obtain ⟨m, hm, hidle⟩ := hfair.resolves hrun hI n
    exact ⟨m, hm, hidle, (hrun.inv hI m).result_ne_pending hidle⟩
  case frames => exact fun hs hgo k hk => hfair.frames_keep_ending hrun hI hs hgo hk
  case calls =>
    intro L h max uid lo hi cc f pid pd
    exact ⟨(spinsEnd_buildpkt ..).returnsWhenFair, (spinsEnd_sendwait ..).returnsWhenFair,
      (spinsEnd_discover ..).returnsWhenFair, (spinsEnd_buildpkt_sendwait ..).returnsWhenFair,
      (spinsEnd_buildpkt_sendwait ..).returnsWhenFair, (spinsEnd_get ..).returnsWhenFair,
      (spinsEnd_buildpkt_sendwait ..).returnsWhenFair⟩
  case unbounded => exact fun f π σ x h h0 n => (NeverReturns.run h (h0 ▸ neverReturns_sendwait f) n).ended_ne
  case bounded => exact fun n => ((spinsEnd_spinUntil_finite _ n).bind fun _ => .done _).returnsWhenFair
  case waitframe => exact fun π σ x h hfair hhost hI hs h0 => waitframe_returns_true h hfair hhost hI hs h0

end Sys2Proof.Machine
end
